-- ==== Sys2Proof/Word.lean ====
section
/-! DEFINITION. The widths the CORE works in (rule R5). Only the types: every operation on them stands in a file
of Sys2Proof/Machine or in Sys2Proof/Decode.lean. -/

namespace Sys2Proof

/-- A data byte, a general register, a timer (R5, XLEN). -/
abbrev Byte := BitVec 8

/-- An instruction word, the pc, the index register, a call-stack entry (R5 IWIDTH, R12, R14, R17). -/
abbrev Word := BitVec 16

/-- A 4-bit half of a byte: a field X, Y or N of an instruction, or a key number (R9, R22). -/
abbrev Nibble := BitVec 4

/-- A 12-bit address field NNN (R9). -/
abbrev Addr := BitVec 12

end Sys2Proof
end

