-- ==== Sys2Proof/Syntax.lean ====
section
/-! DEFINITION. The 35 instructions of rule R55 (spec/opcode_table.json), one constructor per row, in the table's
order. A word that matches no row has no constructor: it is a no-op of the step (R58). -/

namespace Sys2Proof

/-- An instruction with its operand fields (R9): `x`, `y` register numbers, `n` a 4-bit count, `nn` a byte,
`nnn` a 12-bit address. Ignored fields (SYS's NNN, the Y of the shifts) are kept, so that encoding loses nothing:
DESIGN CHOICE, safe (assumption log 11). -/
inductive Instr where
  /-- 0NNN, R81. -/
  | sys (nnn : Addr)
  /-- 00E0, R112. -/
  | cls
  /-- 00EE, R82. -/
  | ret
  /-- 1NNN, R83. -/
  | jp (nnn : Addr)
  /-- 2NNN, R84. -/
  | call (nnn : Addr)
  /-- 3XNN, R85. -/
  | seByte (x : Nibble) (nn : Byte)
  /-- 4XNN, R86. -/
  | sneByte (x : Nibble) (nn : Byte)
  /-- 5XY0, R87. -/
  | seReg (x y : Nibble)
  /-- 6XNN, R91. -/
  | ldByte (x : Nibble) (nn : Byte)
  /-- 7XNN, R92. -/
  | addByte (x : Nibble) (nn : Byte)
  /-- 8XY0, R93. -/
  | ldReg (x y : Nibble)
  /-- 8XY1, R94. -/
  | orReg (x y : Nibble)
  /-- 8XY2, R95. -/
  | andReg (x y : Nibble)
  /-- 8XY3, R96. -/
  | xorReg (x y : Nibble)
  /-- 8XY4, R97. -/
  | addReg (x y : Nibble)
  /-- 8XY5, R98. -/
  | subReg (x y : Nibble)
  /-- 8XY6, R99; `y` is ignored. -/
  | shr (x y : Nibble)
  /-- 8XY7, R100. -/
  | subnReg (x y : Nibble)
  /-- 8XYE, R101; `y` is ignored. -/
  | shl (x y : Nibble)
  /-- 9XY0, R88. -/
  | sneReg (x y : Nibble)
  /-- ANNN, R105. -/
  | ldI (nnn : Addr)
  /-- BNNN, R89. -/
  | jpV0 (nnn : Addr)
  /-- CXNN, R102. -/
  | rnd (x : Nibble) (nn : Byte)
  /-- DXYN, R113. -/
  | drw (x y n : Nibble)
  /-- EX9E, R116. -/
  | skp (x : Nibble)
  /-- EXA1, R117. -/
  | sknp (x : Nibble)
  /-- FX07, R119. -/
  | ldVxDT (x : Nibble)
  /-- FX0A, R118. -/
  | ldVxK (x : Nibble)
  /-- FX15, R120. -/
  | ldDTVx (x : Nibble)
  /-- FX18, R121. -/
  | ldSTVx (x : Nibble)
  /-- FX1E, R106. -/
  | addIVx (x : Nibble)
  /-- FX29, R107. -/
  | ldFVx (x : Nibble)
  /-- FX33, R108. -/
  | ldBVx (x : Nibble)
  /-- FX55, R109. -/
  | storeRegs (x : Nibble)
  /-- FX65, R110. -/
  | loadRegs (x : Nibble)
  deriving DecidableEq, Repr

end Sys2Proof
end

