-- ==== Sys2Proof/Decode.lean ====
section
/-! DEFINITION. The decoder (rules R50 to R61), the encoder, and the opcode table of rule R55 as data.
The bit patterns are the spec's from general knowledge: UNVERIFIED, unsafe as a model of the original software
(assumption log 14). -/

namespace Sys2Proof

/-! ### Fields of a word (R9, R51) -/

/-- F = op[15:12], the family. -/
def fieldF (op : Word) : Nibble := op.extractLsb' 12 4
/-- X = op[11:8]. -/
def fieldX (op : Word) : Nibble := op.extractLsb' 8 4
/-- Y = op[7:4]. -/
def fieldY (op : Word) : Nibble := op.extractLsb' 4 4
/-- N = op[3:0]. -/
def fieldN (op : Word) : Nibble := op.extractLsb' 0 4
/-- NN = op[7:0]. -/
def fieldNN (op : Word) : Byte := op.extractLsb' 0 8
/-- NNN = op[11:0]. -/
def fieldNNN (op : Word) : Addr := op.extractLsb' 0 12

/-! ### Byte order of a word in memory (R34) -/

/-- The byte at the lower address: op[15:8]. -/
def wordHi (op : Word) : Byte := op.extractLsb' 8 8
/-- The byte at the higher address: op[7:0]. -/
def wordLo (op : Word) : Byte := op.extractLsb' 0 8
/-- `hi ## lo`, big-endian (R34). -/
def wordOfBytes (hi lo : Byte) : Word := hi ++ lo

/-! ### Decoding (R54) -/

/-- Why bits give no instruction. The first five are the families with unrecognized words (R59). -/
inductive Reject where
  /-- 5XYn with n not 0. -/
  | family5 (op : Word)
  /-- 8XYn with n in 8, 9, A, B, C, D, F. -/
  | family8 (op : Word)
  /-- 9XYn with n not 0. -/
  | family9 (op : Word)
  /-- EXnn with nn neither 9E nor A1. -/
  | familyE (op : Word)
  /-- FXnn with nn none of the nine of the table. -/
  | familyF (op : Word)
  /-- Fewer than the two bytes every instruction has (R50); a fetch from memory never meets this. -/
  | tooFewBytes
  deriving DecidableEq, Repr

/-- Family 0 goes by the whole word: CLS, RET, otherwise SYS. -/
def decodeFamily0 (op : Word) : Instr :=
  if op = 0x00E0#16 then .cls
  else if op = 0x00EE#16 then .ret
  else .sys (fieldNNN op)

/-- Family 5 holds one instruction, with N = 0. -/
def decodeFamily5 (op : Word) : Except Reject Instr :=
  match fieldN op with
  | 0x0#4 => .ok (.seReg (fieldX op) (fieldY op))
  | _ => .error (.family5 op)

/-- Family 8 goes by the low nibble N. -/
def decodeFamily8 (op : Word) : Except Reject Instr :=
  match fieldN op with
  | 0x0#4 => .ok (.ldReg (fieldX op) (fieldY op))
  | 0x1#4 => .ok (.orReg (fieldX op) (fieldY op))
  | 0x2#4 => .ok (.andReg (fieldX op) (fieldY op))
  | 0x3#4 => .ok (.xorReg (fieldX op) (fieldY op))
  | 0x4#4 => .ok (.addReg (fieldX op) (fieldY op))
  | 0x5#4 => .ok (.subReg (fieldX op) (fieldY op))
  | 0x6#4 => .ok (.shr (fieldX op) (fieldY op))
  | 0x7#4 => .ok (.subnReg (fieldX op) (fieldY op))
  | 0xE#4 => .ok (.shl (fieldX op) (fieldY op))
  | _ => .error (.family8 op)

/-- Family 9 holds one instruction, with N = 0. -/
def decodeFamily9 (op : Word) : Except Reject Instr :=
  match fieldN op with
  | 0x0#4 => .ok (.sneReg (fieldX op) (fieldY op))
  | _ => .error (.family9 op)

/-- Family E goes by the low byte NN. -/
def decodeFamilyE (op : Word) : Except Reject Instr :=
  match fieldNN op with
  | 0x9E#8 => .ok (.skp (fieldX op))
  | 0xA1#8 => .ok (.sknp (fieldX op))
  | _ => .error (.familyE op)

/-- Family F goes by the low byte NN. -/
def decodeFamilyF (op : Word) : Except Reject Instr :=
  match fieldNN op with
  | 0x07#8 => .ok (.ldVxDT (fieldX op))
  | 0x0A#8 => .ok (.ldVxK (fieldX op))
  | 0x15#8 => .ok (.ldDTVx (fieldX op))
  | 0x18#8 => .ok (.ldSTVx (fieldX op))
  | 0x1E#8 => .ok (.addIVx (fieldX op))
  | 0x29#8 => .ok (.ldFVx (fieldX op))
  | 0x33#8 => .ok (.ldBVx (fieldX op))
  | 0x55#8 => .ok (.storeRegs (fieldX op))
  | 0x65#8 => .ok (.loadRegs (fieldX op))
  | _ => .error (.familyF op)

/-- R54, R72: the instruction a word stands for, a pure function of its 16 bits. -/
def decode (op : Word) : Except Reject Instr :=
  match fieldF op with
  | 0x0#4 => .ok (decodeFamily0 op)
  | 0x1#4 => .ok (.jp (fieldNNN op))
  | 0x2#4 => .ok (.call (fieldNNN op))
  | 0x3#4 => .ok (.seByte (fieldX op) (fieldNN op))
  | 0x4#4 => .ok (.sneByte (fieldX op) (fieldNN op))
  | 0x5#4 => decodeFamily5 op
  | 0x6#4 => .ok (.ldByte (fieldX op) (fieldNN op))
  | 0x7#4 => .ok (.addByte (fieldX op) (fieldNN op))
  | 0x8#4 => decodeFamily8 op
  | 0x9#4 => decodeFamily9 op
  | 0xA#4 => .ok (.ldI (fieldNNN op))
  | 0xB#4 => .ok (.jpV0 (fieldNNN op))
  | 0xC#4 => .ok (.rnd (fieldX op) (fieldNN op))
  | 0xD#4 => .ok (.drw (fieldX op) (fieldY op) (fieldN op))
  | 0xE#4 => decodeFamilyE op
  -- the one family left is 0xF
  | _ => decodeFamilyF op

/-- Decoding from a byte list: two bytes, high byte first (R34, R50), and the bytes that follow. -/
def decodeBytes : List Byte → Except Reject (Instr × List Byte)
  | hi :: lo :: rest =>
    match decode (wordOfBytes hi lo) with
    | .ok i => .ok (i, rest)
    | .error r => .error r
  | [_] => .error .tooFewBytes
  | [] => .error .tooFewBytes

/-- The word whose bits, numbered from 0 at the least significant end (R7), are those of `w` below `nbits`. -/
def tableWord (nbits w : Nat) : Word := BitVec.ofNat 16 (w % 2 ^ nbits)

/-- The instruction the decoder reads from the bits `w`, laid out in memory order. -/
def decodeTableWord (nbits w : Nat) : Option Instr :=
  match decodeBytes [wordHi (tableWord nbits w), wordLo (tableWord nbits w)] with
  | .ok (i, _) => some i
  | .error _ => none

/-! ### Encoding (R52, R55) -/

/-- Format ADDR: F NNN. -/
def fmtAddr (f : Nibble) (nnn : Addr) : Word := f ++ nnn
/-- Formats REG_IMM and REG: F X NN. -/
def fmtRegImm (f x : Nibble) (nn : Byte) : Word := f ++ x ++ nn
/-- Formats REG_REG and REG_REG_NIB: F X Y N. -/
def fmtRegReg (f x y n : Nibble) : Word := f ++ x ++ y ++ n

/-- The word of an instruction, from the patterns of R55. -/
def encode : Instr → Word
  | .sys nnn => fmtAddr 0x0#4 nnn
  | .cls => 0x00E0#16
  | .ret => 0x00EE#16
  | .jp nnn => fmtAddr 0x1#4 nnn
  | .call nnn => fmtAddr 0x2#4 nnn
  | .seByte x nn => fmtRegImm 0x3#4 x nn
  | .sneByte x nn => fmtRegImm 0x4#4 x nn
  | .seReg x y => fmtRegReg 0x5#4 x y 0x0#4
  | .ldByte x nn => fmtRegImm 0x6#4 x nn
  | .addByte x nn => fmtRegImm 0x7#4 x nn
  | .ldReg x y => fmtRegReg 0x8#4 x y 0x0#4
  | .orReg x y => fmtRegReg 0x8#4 x y 0x1#4
  | .andReg x y => fmtRegReg 0x8#4 x y 0x2#4
  | .xorReg x y => fmtRegReg 0x8#4 x y 0x3#4
  | .addReg x y => fmtRegReg 0x8#4 x y 0x4#4
  | .subReg x y => fmtRegReg 0x8#4 x y 0x5#4
  | .shr x y => fmtRegReg 0x8#4 x y 0x6#4
  | .subnReg x y => fmtRegReg 0x8#4 x y 0x7#4
  | .shl x y => fmtRegReg 0x8#4 x y 0xE#4
  | .sneReg x y => fmtRegReg 0x9#4 x y 0x0#4
  | .ldI nnn => fmtAddr 0xA#4 nnn
  | .jpV0 nnn => fmtAddr 0xB#4 nnn
  | .rnd x nn => fmtRegImm 0xC#4 x nn
  | .drw x y n => fmtRegReg 0xD#4 x y n
  | .skp x => fmtRegImm 0xE#4 x 0x9E#8
  | .sknp x => fmtRegImm 0xE#4 x 0xA1#8
  | .ldVxDT x => fmtRegImm 0xF#4 x 0x07#8
  | .ldVxK x => fmtRegImm 0xF#4 x 0x0A#8
  | .ldDTVx x => fmtRegImm 0xF#4 x 0x15#8
  | .ldSTVx x => fmtRegImm 0xF#4 x 0x18#8
  | .addIVx x => fmtRegImm 0xF#4 x 0x1E#8
  | .ldFVx x => fmtRegImm 0xF#4 x 0x29#8
  | .ldBVx x => fmtRegImm 0xF#4 x 0x33#8
  | .storeRegs x => fmtRegImm 0xF#4 x 0x55#8
  | .loadRegs x => fmtRegImm 0xF#4 x 0x65#8

/-- The two bytes of an instruction in memory order, high byte first (R34, R51). -/
def encodeBytes (i : Instr) : List Byte := [wordHi (encode i), wordLo (encode i)]

/-! ### The opcode table of R55 as data: (mask, match) per row -/

/-- Rows 1 to 10 of R55. -/
def opcodeRowsA : List (Word × Word) :=
  [(0xF000#16, 0x0000#16), (0xFFFF#16, 0x00E0#16), (0xFFFF#16, 0x00EE#16), (0xF000#16, 0x1000#16),
   (0xF000#16, 0x2000#16), (0xF000#16, 0x3000#16), (0xF000#16, 0x4000#16), (0xF00F#16, 0x5000#16),
   (0xF000#16, 0x6000#16), (0xF000#16, 0x7000#16)]

/-- Rows 11 to 20 of R55. -/
def opcodeRowsB : List (Word × Word) :=
  [(0xF00F#16, 0x8000#16), (0xF00F#16, 0x8001#16), (0xF00F#16, 0x8002#16), (0xF00F#16, 0x8003#16),
   (0xF00F#16, 0x8004#16), (0xF00F#16, 0x8005#16), (0xF00F#16, 0x8006#16), (0xF00F#16, 0x8007#16),
   (0xF00F#16, 0x800E#16), (0xF00F#16, 0x9000#16)]

/-- Rows 21 to 35 of R55. -/
def opcodeRowsC : List (Word × Word) :=
  [(0xF000#16, 0xA000#16), (0xF000#16, 0xB000#16), (0xF000#16, 0xC000#16), (0xF000#16, 0xD000#16),
   (0xF0FF#16, 0xE09E#16), (0xF0FF#16, 0xE0A1#16), (0xF0FF#16, 0xF007#16), (0xF0FF#16, 0xF00A#16),
   (0xF0FF#16, 0xF015#16), (0xF0FF#16, 0xF018#16), (0xF0FF#16, 0xF01E#16), (0xF0FF#16, 0xF029#16),
   (0xF0FF#16, 0xF033#16), (0xF0FF#16, 0xF055#16), (0xF0FF#16, 0xF065#16)]

/-- The 35 rows of R55 in the table's order. -/
def opcodeTable : List (Word × Word) := opcodeRowsA ++ opcodeRowsB ++ opcodeRowsC

/-- The number of an instruction's row in R55, counted from 0. -/
def Instr.rowIndex : Instr → Nat
  | .sys _ => 0
  | .cls => 1
  | .ret => 2
  | .jp _ => 3
  | .call _ => 4
  | .seByte _ _ => 5
  | .sneByte _ _ => 6
  | .seReg _ _ => 7
  | .ldByte _ _ => 8
  | .addByte _ _ => 9
  | .ldReg _ _ => 10
  | .orReg _ _ => 11
  | .andReg _ _ => 12
  | .xorReg _ _ => 13
  | .addReg _ _ => 14
  | .subReg _ _ => 15
  | .shr _ _ => 16
  | .subnReg _ _ => 17
  | .shl _ _ => 18
  | .sneReg _ _ => 19
  | .ldI _ => 20
  | .jpV0 _ => 21
  | .rnd _ _ => 22
  | .drw _ _ _ => 23
  | .skp _ => 24
  | .sknp _ => 25
  | .ldVxDT _ => 26
  | .ldVxK _ => 27
  | .ldDTVx _ => 28
  | .ldSTVx _ => 29
  | .addIVx _ => 30
  | .ldFVx _ => 31
  | .ldBVx _ => 32
  | .storeRegs _ => 33
  | .loadRegs _ => 34

/-- R54: a word matches a row when `op AND mask = match`. -/
def rowMatches (row : Word × Word) (op : Word) : Bool := op &&& row.1 == row.2

/-- The row of R55 an instruction belongs to. -/
def Instr.row (i : Instr) : Word × Word := opcodeTable.getD i.rowIndex (0xFFFF#16, 0x0000#16)

end Sys2Proof
end

