-- ==== Sys2Proof/Config.lean ====
section
/-! DEFINITION. The parameters of the CORE (rules R5, R6) and its one free value, the random byte (R102). -/

namespace Sys2Proof

/-- PROG_BASE: where LOAD puts the first byte of a program, and the pc after reset (R5, R32). -/
def Config.progBase : Nat := 512

/-- PROG_MAX = 4096 - 512: the longest program LOAD accepts (R5, R126). -/
def Config.progMax : Nat := 3584

/-- FONT_BASE: the base of the addresses `LD F, Vx` computes (R6, R107). No glyph is stored there. -/
def Config.fontBase : Nat := 0

/-- FONT_STRIDE: bytes per hexadecimal digit in those addresses (R6, R107). -/
def Config.fontStride : Nat := 5

/-- The random byte of the n-th executed RND (R6 rnd, R24, R102): a free value, under no law.
It has no body, so nothing in Lean can tell what it is. DESIGN CHOICE: one sequence for every run, which is safe for a claim
about one run, and unsafe for one that compares runs (assumption log 1). -/
opaque Config.rnd : Nat → Byte

end Sys2Proof
end

