-- ==== Sys2Proof/Machine/State.lean ====
section
/-! DEFINITION. The state of the CORE (10_state.md), its value after reset (R26), and the reasons an event can stop. -/

namespace Sys2Proof.Machine

/-- The bytes of `memory` (R18) that differ from the value an unlisted address reads as, by rising address.
DESIGN CHOICE, safe: a form of the 4096 bytes (assumption log 5). -/
abbrev Memory := List Host.Cell

/-- `display` (R19): 32 rows of 64 cells, `true` is on. -/
abbrev Framebuffer := Vector (Vector Bool 64) 32

/-- The fault latch (R23, R140). -/
inductive FaultLatch where
  /-- Code 0: running. -/
  | none
  /-- Code 1: a CALL met a full stack (R141). -/
  | stackOverflow
  /-- Code 2: a RET met an empty stack (R142). -/
  | stackUnderflow
  deriving DecidableEq, Repr

/-- MachineState: the elements of 10_state.md, and the model's own count of the random bytes drawn. -/
structure State where
  /-- V0 to VF (R10, R11). -/
  regs : Vector Byte 16
  /-- The program counter (R12); between events the address of the next instruction. -/
  pc : Word
  /-- The index register (R14), all 16 bits kept. -/
  i : Word
  /-- The number of active call-stack entries, 0 to 16. DESIGN CHOICE, safe: R16 lets a model use any type that holds these
  (assumption log 4). -/
  sp : Fin 17
  /-- The call stack (R17), stale entries included. -/
  stack : Vector Word 16
  /-- The 4096 bytes of memory (R18). -/
  mem : Memory
  /-- The framebuffer (R19). -/
  fb : Framebuffer
  /-- The delay timer (R20). -/
  dt : Byte
  /-- The sound timer (R21). -/
  st : Byte
  /-- The key state (R22), `true` is pressed. -/
  keys : Vector Bool 16
  /-- The fault latch (R23). -/
  fault : FaultLatch
  /-- How many random bytes RND has drawn: the model's own field, no state of the CORE (R24).
  DESIGN CHOICE, safe for a claim about one run: it only makes each draw another free value; unsafe for a claim that
  compares runs, since equal counts draw equal bytes (assumption log 1). -/
  draws : Nat
  deriving DecidableEq, Repr

/-- Reasons a step could stop with a fault: there are none. The two faults of the spec (R140) are next states with the
fault latch set (R77, R148), and nothing else can fail (R145). DEDUCED, safe: nothing is left out by it (assumption log 3). -/
inductive Fault where
  deriving DecidableEq, Repr

/-- Reasons an event is refused. A refused event changes nothing (assumption log 13). -/
inductive Refusal where
  /-- Raised by `exec` for an instruction without a meaning; no arm raises it now. Safe: nothing runs. -/
  | notModelled (mnemonic : String)
  /-- CapacityExceeded: raised by the LOAD event for more than 3584 bytes (R126). Safe: the spec's own refusal. -/
  | capacityExceeded (len : Nat)
  /-- Raised by the KEYPRESS event for a key index above 15 (R128). Safe: the spec's own refusal. -/
  | keyIndexOutOfRange (index : Nat)
  deriving DecidableEq, Repr

/-- The outcome of an instruction, of a TICK or of a host event. -/
abbrev Result := Host.Outcome State Fault Refusal

/-- The state after reset (R26): every field zero but the pc. `draws`, the model's own field, is
0: DESIGN CHOICE, safe for a claim about one run; unsafe for one that compares runs, all of which then start from one
count (assumption log 1). -/
def State.reset : State where
  regs := Vector.replicate 16 0x00#8
  pc := 0x0200#16
  i := 0x0000#16
  sp := 0
  stack := Vector.replicate 16 0x0000#16
  mem := []
  fb := Vector.replicate 32 (Vector.replicate 64 false)
  dt := 0x00#8
  st := 0x00#8
  keys := Vector.replicate 16 false
  fault := .none
  draws := 0

end Sys2Proof.Machine
end

