-- ==== Sys2Proof/Machine/Ops.lean ====
section
/-! DEFINITION. The named operations over registers, pc, memory, call stack, framebuffer and fault latch. -/

namespace Sys2Proof.Machine

/-! ### Addresses -/

/-- Reduction to the 12-bit address space, of pc values (R13) and of access addresses (R33). -/
def wrapAddr (n : Nat) : Nat := n % 4096

/-! ### Memory (R18, R31, R33) -/

/-- What an unlisted address reads as: the reset contents of every byte (R18, R26). -/
def Memory.unlisted : Byte := 0x00#8

/-- The byte at key `a`. -/
def Memory.read : Memory → Nat → Byte
  | [], _ => Memory.unlisted
  | (k, v) :: m, a => if k = a then v else Memory.read m a

/-- The list without its entries at key `a`. -/
def Memory.erase : Memory → Nat → Memory
  | [], _ => []
  | (k, v) :: m, a => if k = a then Memory.erase m a else (k, v) :: Memory.erase m a

/-- The list with an entry put before the first larger key. -/
def Memory.put : Memory → Nat → Byte → Memory
  | [], a, b => [(a, b)]
  | (k, v) :: m, a, b => if a < k then (a, b) :: (k, v) :: m else (k, v) :: Memory.put m a b

/-- Replacing the byte at key `a`; writing what an unlisted address reads as leaves no entry. -/
def Memory.write (m : Memory) (a : Nat) (b : Byte) : Memory :=
  if b = Memory.unlisted then Memory.erase m a else Memory.put (Memory.erase m a) a b

/-- Keys strictly rising from `lo` on and below 4096, no entry equal to what an unlisted address reads as. -/
def Memory.wfFrom : Nat → Memory → Bool
  | _, [] => true
  | lo, (k, v) :: m => decide (lo ≤ k) && decide (k < 4096) && decide (v ≠ Memory.unlisted) && Memory.wfFrom (k + 1) m

/-- The canonical form: equal memories are equal lists. -/
def Memory.wf (m : Memory) : Bool := Memory.wfFrom 0 m

/-! ### Registers -/

/-- Reading register Vx (R8, R10). -/
def State.reg (s : State) (x : Nibble) : Byte := s.regs[x.toNat]'x.isLt

/-- Writing register Vx (R8, R10). -/
def State.setReg (s : State) (x : Nibble) (v : Byte) : State := { s with regs := s.regs.set x.toNat v x.isLt }

/-- Writing the pc: every value is reduced mod 4096 (R13). DEDUCED, safe: RET's popped value too, which no CALL makes
4096 or more (assumption log 6). -/
def State.setPc (s : State) (n : Nat) : State := { s with pc := BitVec.ofNat 16 (wrapAddr n) }

/-- The fetch step's advance (R71); a skip is the same again (R80). -/
def State.advance (s : State) : State := s.setPc (s.pc.toNat + 2)

/-- A conditional skip on an advanced pc (R80). -/
def State.skipIf (s : State) (c : Bool) : State := if c then s.advance else s

/-- Writing the index register, all 16 bits (R14). -/
def State.setI (s : State) (v : Word) : State := { s with i := v }

/-- Writing the delay timer (R20). -/
def State.setDT (s : State) (v : Byte) : State := { s with dt := v }

/-- Writing the sound timer (R21). -/
def State.setST (s : State) (v : Byte) : State := { s with st := v }

/-! ### Keys (R22) -/

/-- Whether key `k` is held down. -/
def State.key (s : State) (k : Nibble) : Bool := s.keys[k.toNat]'k.isLt

/-- Setting key bit `k` (R128). -/
def State.setKey (s : State) (k : Nibble) (pressed : Bool) : State :=
  { s with keys := s.keys.set k.toNat pressed k.isLt }

/-- The least pressed key, if any (R118). -/
def State.lowestKey (s : State) : Option Nibble :=
  ((List.range 16).map (BitVec.ofNat 4)).find? s.key

/-! ### Memory accesses of the state: addresses reduced mod 4096, no fault (R8, R33) -/

/-- Replacing the memory. -/
def State.setMem (s : State) (m : Memory) : State := { s with mem := m }

/-- `MemRead(a, 1)`. -/
def State.readByte (s : State) (a : Nat) : Byte := s.mem.read (wrapAddr a)

/-- `MemWrite(a, 1, v)`. -/
def State.writeByte (s : State) (a : Nat) (v : Byte) : State := s.setMem (s.mem.write (wrapAddr a) v)

/-- Bytes written to ascending addresses from `a` on (R37). -/
def State.writeBytes (s : State) (a : Nat) : List Byte → State
  | [] => s
  | b :: bs => (s.writeByte a b).writeBytes (a + 1) bs

/-- The instruction word at the pc, big-endian, whatever the pc's parity (R34, R36, R71). -/
def State.fetch (s : State) : Word := wordOfBytes (s.readByte s.pc.toNat) (s.readByte (s.pc.toNat + 1))

/-- A word stored where `fetch` reads it. -/
def State.placeWord (s : State) (w : Word) : State := s.writeBytes s.pc.toNat [wordHi w, wordLo w]

/-! ### Call stack (R16, R17) -/

/-- CALL's push: the entry at `sp`, then `sp + 1`; nothing when all 16 entries are active (R84). -/
def State.push (s : State) (v : Word) : Option State :=
  if h : s.sp.val < 16 then
    some { s with stack := s.stack.set s.sp.val v h, sp := ⟨s.sp.val + 1, by omega⟩ }
  else none

/-- RET's pop: `sp - 1` and the entry there, which stays in the array; nothing when no entry is active (R82). -/
def State.pop (s : State) : Option (Word × State) :=
  if h : s.sp.val = 0 then none
  else
    have hsp := s.sp.isLt
    some (s.stack[s.sp.val - 1]'(by omega), { s with sp := ⟨s.sp.val - 1, by omega⟩ })

/-! ### Framebuffer (R19, R114, R115) -/

/-- `fb[y][x]`; `false` outside the 64 x 32 grid, where there is no cell. -/
def Framebuffer.get (f : Framebuffer) (x y : Nat) : Bool :=
  if h : x < 64 ∧ y < 32 then (f[y]'h.2)[x]'h.1 else false

/-- `fb[y][x] <- fb[y][x] xor 1`; nothing outside the grid (R115). -/
def Framebuffer.flip (f : Framebuffer) (x y : Nat) : Framebuffer :=
  if h : x < 64 ∧ y < 32 then f.set y ((f[y]'h.2).set x (!(f[y]'h.2)[x]'h.1) h.1) h.2 else f

/-- All 2048 cells off (R112). -/
def Framebuffer.clear : Framebuffer := Vector.replicate 32 (Vector.replicate 64 false)

/-- Replacing the framebuffer. -/
def State.setFb (s : State) (f : Framebuffer) : State := { s with fb := f }

/-- The cell at column `x`, row `y`. -/
def State.pixel (s : State) (x y : Nat) : Bool := s.fb.get x y

/-! ### Faults: entry, and the only way out (R77, R148, R150) -/

/-- Taking a fault, applied to the state as the TICK found it: nothing of the TICK is committed but the latch
(R77). DESIGN CHOICE, safe: a state field and not a step outcome, as R23 allows (assumption log 2). -/
def State.raise (s : State) (c : FaultLatch) : State := { s with fault := c }

/-- RESET (R123), the only exit from the halted condition (R150): every element at its reset value. The count of draws
goes on, so that no draw is taken twice in a run: DESIGN CHOICE, safe (assumption log 1). -/
def State.hostReset (s : State) : State := { State.reset with draws := s.draws }

/-! ### Random byte (R24, R102) -/

/-- The byte the next RND draws (R6, R102). DESIGN CHOICE, unsafe for a claim that compares runs: two states with equal counts,
and so two runs from State.reset, draw equal bytes, an agreement 91_not_in_source.md N5 says not to assume. Safe for a
claim about one run, where each draw is a free value (assumption log 1). -/
def State.randomByte (s : State) : Byte := Config.rnd s.draws

/-- Counting a draw, so that the next one is fresh. -/
def State.drawn (s : State) : State := { s with draws := s.draws + 1 }

end Sys2Proof.Machine
end

