-- ==== Sys2Proof/Machine/Operands.lean ====
section
/-! DEFINITION. The operand forms: how an operand field or a register becomes a value, an address or an index. -/

namespace Sys2Proof.Machine

/-- NNN as a byte address 0 to 4095 (R53). -/
def addrOperand (nnn : Addr) : Nat := nnn.toNat

/-- `zext_16(NNN)` (R53, R105). -/
def addrWord (nnn : Addr) : Word := nnn.setWidth 16

/-- `zext_16(Vx)` (R106). -/
def regWord (s : State) (x : Nibble) : Word := (s.reg x).setWidth 16

/-- `Vx[3:0]` (R107, R122). -/
def lowNibble (b : Byte) : Nibble := b.extractLsb' 0 4

/-- The key SKP and SKNP test, the low nibble of Vx (R122). -/
def keyOperand (s : State) (x : Nibble) : Bool := s.key (lowNibble (s.reg x))

/-- A key number as a register value, 0x00 to 0x0F (R118). -/
def keyByte (k : Nibble) : Byte := k.setWidth 8

/-- The k-th byte address of an access sequence through `I`, before the reduction mod 4096 (R111). -/
def indexAddr (s : State) (k : Nat) : Nat := s.i.toNat + k

/-- The register of number `k` in a sequence V0 to Vx (R109, R110). -/
def regOf (k : Nat) : Nibble := BitVec.ofNat 4 k

/-- How many registers V0 to Vx are. -/
def regCount (x : Nibble) : Nat := x.toNat + 1

/-- The address of the digit of Vx in the conventional font, `FONT_BASE + 5 * Vx[3:0]` (R107). -/
def fontAddr (b : Byte) : Word := BitVec.ofNat 16 (Config.fontBase + Config.fontStride * (lowNibble b).toNat)

/-- The target of `JP V0, addr` before the reduction mod 4096 (R89). -/
def v0Target (s : State) (nnn : Addr) : Nat := nnn.toNat + (s.reg 0x0#4).toNat

/-- A start coordinate of DRW: the register's value, not reduced (R113, R115). -/
def coordOperand (s : State) (x : Nibble) : Nat := (s.reg x).toNat

/-- The three decimal digits of a byte, hundreds first (R108). -/
def bcdDigits (b : Byte) : List Byte :=
  [BitVec.ofNat 8 (b.toNat / 100), BitVec.ofNat 8 (b.toNat / 10 % 10), BitVec.ofNat 8 (b.toNat % 10)]

end Sys2Proof.Machine
end

