-- ==== Sys2Proof/Machine/Flags.lean ====
section
/-! DEFINITION. The 8-bit results and the flag values of R11, each computed from the exact, unwrapped value (R90). -/

namespace Sys2Proof.Machine

/-- A flag as the byte VF receives, 0x00 or 0x01 (R11). -/
def flagByte (c : Bool) : Byte := if c then 0x01#8 else 0x00#8

/-- `(a + b) mod 256` (R90). -/
def addResult (a b : Byte) : Byte := BitVec.ofNat 8 (a.toNat + b.toNat)

/-- Carry: the sum exceeds 255 (R90, R97). -/
def carryFlag (a b : Byte) : Byte := flagByte (decide (a.toNat + b.toNat > 255))

/-- `(a + 256 - b) mod 256` (R90). -/
def subResult (a b : Byte) : Byte := BitVec.ofNat 8 (a.toNat + 256 - b.toNat)

/-- Not-borrow: `a >= b` (R90, R98, R100). -/
def notBorrowFlag (a b : Byte) : Byte := flagByte (decide (a.toNat ≥ b.toNat))

/-- `a / 2`: zero into bit 7 (R99). -/
def shrResult (a : Byte) : Byte := BitVec.ofNat 8 (a.toNat / 2)

/-- The bit a right shift drops, old bit 0 (R99). -/
def shrFlag (a : Byte) : Byte := flagByte (a.getLsbD 0)

/-- `(a * 2) mod 256`: zero into bit 0 (R101). -/
def shlResult (a : Byte) : Byte := BitVec.ofNat 8 (a.toNat * 2)

/-- The bit a left shift drops, old bit 7 (R101). -/
def shlFlag (a : Byte) : Byte := flagByte (a.getLsbD 7)

/-- Writing VF, register 15 (R11). -/
def State.setVF (s : State) (flag : Byte) : State := s.setReg 0xF#4 flag

/-- The order of R103: the result to Vx, then the flag to VF, which wins when X = 15. -/
def State.setRegAndFlag (s : State) (x : Nibble) (result flag : Byte) : State := (s.setReg x result).setVF flag

end Sys2Proof.Machine
end

