-- ==== Sys2Proof/Machine/Alu.lean ====
section
/-! DEFINITION. Register load, arithmetic, logic, shift, random (42_alu.md). Operands are read from the state as the
TICK finds it, before any write (R73, R103). -/

namespace Sys2Proof.Machine

/-- R91. -/
def execLdByte (x : Nibble) (nn : Byte) (s : State) : Result := .next (s.advance.setReg x nn)

/-- R92: no flag. -/
def execAddByte (x : Nibble) (nn : Byte) (s : State) : Result := .next (s.advance.setReg x (addResult (s.reg x) nn))

/-- R93. -/
def execLdReg (x y : Nibble) (s : State) : Result := .next (s.advance.setReg x (s.reg y))

/-- R94. -/
def execOrReg (x y : Nibble) (s : State) : Result := .next (s.advance.setReg x (s.reg x ||| s.reg y))

/-- R95. -/
def execAndReg (x y : Nibble) (s : State) : Result := .next (s.advance.setReg x (s.reg x &&& s.reg y))

/-- R96. -/
def execXorReg (x y : Nibble) (s : State) : Result := .next (s.advance.setReg x (s.reg x ^^^ s.reg y))

/-- R97. -/
def execAddReg (x y : Nibble) (s : State) : Result :=
  .next (s.advance.setRegAndFlag x (addResult (s.reg x) (s.reg y)) (carryFlag (s.reg x) (s.reg y)))

/-- R98: Vx - Vy. -/
def execSubReg (x y : Nibble) (s : State) : Result :=
  .next (s.advance.setRegAndFlag x (subResult (s.reg x) (s.reg y)) (notBorrowFlag (s.reg x) (s.reg y)))

/-- R99: in place on Vx, Y ignored. -/
def execShr (x _y : Nibble) (s : State) : Result :=
  .next (s.advance.setRegAndFlag x (shrResult (s.reg x)) (shrFlag (s.reg x)))

/-- R100: Vy - Vx. -/
def execSubnReg (x y : Nibble) (s : State) : Result :=
  .next (s.advance.setRegAndFlag x (subResult (s.reg y) (s.reg x)) (notBorrowFlag (s.reg y) (s.reg x)))

/-- R101: in place on Vx, Y ignored. -/
def execShl (x _y : Nibble) (s : State) : Result :=
  .next (s.advance.setRegAndFlag x (shlResult (s.reg x)) (shlFlag (s.reg x)))

/-- R102: a fresh random byte, masked. -/
def execRnd (x : Nibble) (nn : Byte) (s : State) : Result := .next (s.advance.drawn.setReg x (s.randomByte &&& nn))

end Sys2Proof.Machine
end

