-- ==== Sys2Proof/Machine/ControlFlow.lean ====
section
/-! DEFINITION. Control transfer (41_control_flow.md). A meaning takes the state as the TICK finds it, so `s.pc` is
`pc0`, and advances the pc itself before anything else (R71); a fault starts again from `s` (R77). -/

namespace Sys2Proof.Machine

/-- R58: a word that matches no row only advances the pc. -/
def execUnrecognized (s : State) : Result := .next s.advance

/-- R81. -/
def execSys (_nnn : Addr) (s : State) : Result := .next s.advance

/-- R82. -/
def execRet (s : State) : Result :=
  match s.advance.pop with
  | none => .next (s.raise .stackUnderflow)
  | some (v, t) => .next (t.setPc v.toNat)

/-- R83. -/
def execJp (nnn : Addr) (s : State) : Result := .next (s.advance.setPc (addrOperand nnn))

/-- R84: what is pushed is the advanced pc. -/
def execCall (nnn : Addr) (s : State) : Result :=
  match s.advance.push s.advance.pc with
  | none => .next (s.raise .stackOverflow)
  | some t => .next (t.setPc (addrOperand nnn))

/-- R85. -/
def execSeByte (x : Nibble) (nn : Byte) (s : State) : Result := .next (s.advance.skipIf (s.reg x == nn))

/-- R86. -/
def execSneByte (x : Nibble) (nn : Byte) (s : State) : Result := .next (s.advance.skipIf (s.reg x != nn))

/-- R87. -/
def execSeReg (x y : Nibble) (s : State) : Result := .next (s.advance.skipIf (s.reg x == s.reg y))

/-- R88. -/
def execSneReg (x y : Nibble) (s : State) : Result := .next (s.advance.skipIf (s.reg x != s.reg y))

/-- R89. -/
def execJpV0 (nnn : Addr) (s : State) : Result := .next (s.advance.setPc (v0Target s nnn))

end Sys2Proof.Machine
end

