-- ==== Sys2Proof/Machine/Display.lean ====
section
/-! DEFINITION. The display instructions (44_display.md), drawn pixel by pixel as R113's pseudocode does. -/

namespace Sys2Proof.Machine

/-- One sprite bit that is 1, at a target in or out of the grid: XOR and collision, or clipped (R113, R115). A hit is a cell
that was on; R113's corner case on a second draw is read so: DEDUCED, safe (assumption log 12). -/
def drawPixel (d : Framebuffer × Bool) (px py : Nat) : Framebuffer × Bool :=
  if px < 64 ∧ py < 32 then (d.1.flip px py, d.2 || d.1.get px py) else d

/-- Sprite bit of column `col` of a row byte: bit 7 is the leftmost (R114). -/
def spriteBit (b : Byte) (col : Nat) : Bool := b.getLsbD (7 - col)

/-- One sprite row, columns 0 to 7 ascending. -/
def drawRow (b : Byte) (vx py : Nat) (d : Framebuffer × Bool) : Framebuffer × Bool :=
  (List.range 8).foldl (fun e col => if spriteBit b col then drawPixel e (vx + col) py else e) d

/-- Rows 0 to n-1 of the sprite at `I`, ascending, on the framebuffer of `s` (R113). -/
def drawSprite (s : State) (vx vy n : Nat) : Framebuffer × Bool :=
  (List.range n).foldl (fun d row => drawRow (s.readByte (indexAddr s row)) vx (vy + row) d) (s.fb, false)

/-- R112. -/
def execCls (s : State) : Result := .next (s.advance.setFb Framebuffer.clear)

/-- R113: VF is written last, always. -/
def execDrw (x y n : Nibble) (s : State) : Result :=
  let d := drawSprite s (coordOperand s x) (coordOperand s y) n.toNat
  .next ((s.advance.setFb d.1).setVF (flagByte d.2))

end Sys2Proof.Machine
end

