-- ==== Sys2Proof/Machine/IndexMemory.lean ====
section
/-! DEFINITION. The index register and memory (43_index_memory.md). No access faults (R33). -/

namespace Sys2Proof.Machine

/-- R105. -/
def execLdI (nnn : Addr) (s : State) : Result := .next (s.advance.setI (addrWord nnn))

/-- R106: mod 65536, no flag. -/
def execAddIVx (x : Nibble) (s : State) : Result := .next (s.advance.setI (s.i + regWord s x))

/-- R107. -/
def execLdFVx (x : Nibble) (s : State) : Result := .next (s.advance.setI (fontAddr (s.reg x)))

/-- R108. -/
def execLdBVx (x : Nibble) (s : State) : Result := .next (s.advance.writeBytes (indexAddr s 0) (bcdDigits (s.reg x)))

/-- The bytes of V0 to Vx in ascending order. -/
def storedRegs (s : State) (x : Nibble) : List Byte := (List.range (regCount x)).map fun k => s.reg (regOf k)

/-- R109: `I` unchanged. -/
def execStoreRegs (x : Nibble) (s : State) : Result := .next (s.advance.writeBytes (indexAddr s 0) (storedRegs s x))

/-- V0 to V(n-1) loaded in ascending order from `I` on. -/
def loadedRegs (s : State) (n : Nat) : State :=
  (List.range n).foldl (fun t k => t.setReg (regOf k) (t.readByte (indexAddr t k))) s

/-- R110: `I` unchanged. -/
def execLoadRegs (x : Nibble) (s : State) : Result := .next (loadedRegs s.advance (regCount x))

end Sys2Proof.Machine
end

