-- ==== Sys2Proof/Machine/KeypadTimers.lean ====
section
/-! DEFINITION. Keypad and timer instructions (45_keypad_timers.md). -/

namespace Sys2Proof.Machine

/-- R116. -/
def execSkp (x : Nibble) (s : State) : Result := .next (s.advance.skipIf (keyOperand s x))

/-- R117. -/
def execSknp (x : Nibble) (s : State) : Result := .next (s.advance.skipIf (!keyOperand s x))

/-- R119. -/
def execLdVxDT (x : Nibble) (s : State) : Result := .next (s.advance.setReg x s.dt)

/-- R118: with no key pressed the pc goes back to `pc0`, which is `s` itself; the next TICK tries again. -/
def execLdVxK (x : Nibble) (s : State) : Result :=
  match s.lowestKey with
  | some k => .next (s.advance.setReg x (keyByte k))
  | none => .next s

/-- R120. -/
def execLdDTVx (x : Nibble) (s : State) : Result := .next (s.advance.setDT (s.reg x))

/-- R121. -/
def execLdSTVx (x : Nibble) (s : State) : Result := .next (s.advance.setST (s.reg x))

end Sys2Proof.Machine
end

