-- ==== Sys2Proof/Machine/Step.lean ====
section
/-! DEFINITION. The TICK event (40_execution_cycle.md). -/

namespace Sys2Proof.Machine

/-- TICK (R70): a halted CORE does nothing (R75); otherwise one instruction is fetched, decoded and executed, and a
word that matches no row is a no-op (R58). Every meaning advances the pc itself, and the latch is tested here and not in
`exec`: DESIGN CHOICE, safe (assumption log 10). The host's other events are no part of it: DESIGN CHOICE, unsafe for a
claim about runs of `step` alone read as one about every host (assumption log 7). -/
def step (s : State) : Host.Outcome State Fault Refusal :=
  if s.fault = .none then
    match decode s.fetch with
    | .ok i => exec i s
    | .error _ => execUnrecognized s
  else .next s

/-- `s` with the instruction of bits `w` stored at the pc, high byte first (R34), where a CORE that is not halted
fetches next. It stands for the LOAD of a program at the pc: DESIGN CHOICE, safe (assumption log 9). -/
def State.withFetchWord (s : State) (nbits w : Nat) : State := s.placeWord (tableWord nbits w)

end Sys2Proof.Machine
end

