-- ==== Sys2Proof/Machine/HostEvents.lean ====
section
/-! DEFINITION. The host's side of the interface (46_host_operations.md): the events other than TICK, the accessors, and
the order of simultaneous requests. An event is atomic (R38, R130). -/

namespace Sys2Proof.Machine

/-! ### Events that change the state -/

/-- LOAD (R125, R126): the bytes go to 512 on, or more than 3584 of them are refused and nothing is
written. DEDUCED, safe: a state that is not fresh takes them too, as R126 says (assumption log 8). -/
def hostLoad (bytes : List Byte) (s : State) : Result :=
  if bytes.length ≤ Config.progMax then .next (s.writeBytes Config.progBase bytes)
  else .refused (.capacityExceeded bytes.length)

/-- KEYPRESS (R128); an index above 15 is refused with no state change. -/
def hostKeypress (index : Nat) (pressed : Bool) (s : State) : Result :=
  if index < 16 then .next (s.setKey (BitVec.ofNat 4 index) pressed)
  else .refused (.keyIndexOutOfRange index)

/-- A timer's decrement toward zero (R127). -/
def timerDown (t : Byte) : Byte := if t = 0x00#8 then t else t - 0x01#8

/-- ADVANCE_TIMERS (R127). -/
def advanceTimers (s : State) : State := (s.setDT (timerDown s.dt)).setST (timerDown s.st)

/-- One event of the interface (R130). -/
inductive Event where
  | reset
  | load (bytes : List Byte)
  | keypress (index : Nat) (pressed : Bool)
  | tick
  | advanceTimers
  deriving DecidableEq, Repr

/-- What an event does. All but TICK act on a halted CORE too (R75, R123, R126, R127, R128). -/
def applyEvent (e : Event) (s : State) : Result :=
  match e with
  | .reset => .next s.hostReset
  | .load bytes => hostLoad bytes s
  | .keypress index pressed => hostKeypress index pressed s
  | .tick => step s
  | .advanceTimers => .next (advanceTimers s)

/-- The state after an event; a refused event changes nothing (R126, R128). DESIGN CHOICE, safe (assumption log 13). -/
def afterEvent (s : State) (e : Event) : State :=
  match applyEvent e s with
  | .next t => t
  | .fault _ => s
  | .refused _ => s

/-- A run: the events the host issues, in their total order (R78, R130). -/
def runEvents (es : List Event) (s : State) : State := es.foldl afterEvent s

/-- The host's cadence (R6, R136): TICKS_PER_TIMER instructions, then one timer event. The number is the host's: DESIGN CHOICE,
safe, no time is modelled (assumption log 15). -/
def timerPeriod (ticksPerTimer : Nat) : List Event := List.replicate ticksPerTimer .tick ++ [.advanceTimers]

/-! ### Requests at one instant (R131, R132) -/

/-- The input ports of R131 at one instant. -/
structure Requests where
  /-- `rst`. -/
  rst : Bool
  /-- `ld_req`, `ld_len`, `ld_data`. -/
  ld : Option (List Byte)
  /-- `key_we`, `key_idx` (4 bits), `key_val`. -/
  key : Option (Nibble × Bool)
  /-- `step`. -/
  tick : Bool
  /-- `tmr_tick`. -/
  tmr : Bool
  deriving DecidableEq, Repr

/-- The requests as separate events in the fixed order RESET, LOAD, KEYPRESS, TICK, ADVANCE_TIMERS (R132). -/
def Requests.events (r : Requests) : List Event :=
  (if r.rst then [.reset] else [])
    ++ (match r.ld with | some bytes => [.load bytes] | none => [])
    ++ (match r.key with | some (k, p) => [.keypress k.toNat p] | none => [])
    ++ (if r.tick then [.tick] else [])
    ++ (if r.tmr then [.advanceTimers] else [])

/-- Serving the requests of one instant. -/
def serve (r : Requests) (s : State) : State := runEvents r.events s

/-- `ld_err`: the LOAD just requested was refused with CapacityExceeded (R126, R131). -/
def Requests.ldErr (r : Requests) : Bool :=
  match r.ld with
  | some bytes => decide (bytes.length > Config.progMax)
  | none => false

/-! ### Accessors and outputs (R29): plain functions of the state -/

/-- GET_DISPLAY (R129): cell (x, y) is element y * 64 + x. -/
def getDisplay (s : State) : Vector Bool 2048 := Vector.ofFn fun n => s.pixel (n.val % 64) (n.val / 64)

/-- GET_SOUND_TIMER (R133). -/
def getSoundTimer (s : State) : Byte := s.st

/-- `snd_active`: the sound timer is not zero (R29, R133). -/
def soundActive (s : State) : Bool := s.st != 0x00#8

/-- GET_KEYS (R134). -/
def getKeys (s : State) : Vector Bool 16 := s.keys

/-- The code of a fault latch value (R140). -/
def FaultLatch.code : FaultLatch → BitVec 2
  | .none => 0
  | .stackOverflow => 1
  | .stackUnderflow => 2

/-- The `fault` output (R131, R134). -/
def getFault (s : State) : BitVec 2 := s.fault.code

end Sys2Proof.Machine
end

