-- ==== Sys2Proof/Safety.lean ====
section
/-! DEFINITION. The terms claims are stated in: the invariant of reachable states (R28), the fresh state (R124), the end
conditions of a run (R78), the parts of the state and which instruction may write them (R10, R27). -/

namespace Sys2Proof.Machine

/-- The address after the two bytes at the pc, `(pc0 + 2) mod 4096` (R71). -/
def nextPc (s : State) : Nat := (s.pc.toNat + 2) % 4096

/-- Where a taken skip leads, `(pc0 + 4) mod 4096` (R80). -/
def skipPc (s : State) : Nat := (s.pc.toNat + 4) % 4096

/-- R28: the pc and every active return address are below 4096; and, of the model's own form of memory (R28 constrains no
byte), the list is canonical: DESIGN CHOICE, safe (assumption log 5). (`sp <= 16` and the three values of `fault` are in the types.) -/
def State.Inv (s : State) : Prop :=
  s.pc.toNat < 4096 ∧ (∀ k : Fin 16, k.val < s.sp.val → (s.stack[k]).toNat < 4096) ∧ s.mem.wf = true

/-- R75: the fault latch is set. -/
def State.halted (s : State) : Prop := s.fault ≠ .none

/-- R78 (1): not halted, at a `JP` to its own address. -/
def State.idle (s : State) : Prop :=
  s.fault = .none ∧ s.pc.toNat < 4096 ∧ s.fetch = (0x1#4 ++ (s.pc.setWidth 12 : Addr) : Word)

/-! ### Parts of the state -/

/-- The elements of 10_state.md, and the model's count of draws. -/
inductive Part where
  | regs | pc | i | sp | stack | mem | fb | dt | st | keys | fault | draws
  deriving DecidableEq, Repr

/-- A part reads the same in both states; memory, registers, cells and keys through the model's reads. -/
def Part.same (p : Part) (s t : State) : Prop :=
  match p with
  | .regs => ∀ r : Nibble, t.reg r = s.reg r
  | .pc => t.pc = s.pc
  | .i => t.i = s.i
  | .sp => t.sp = s.sp
  | .stack => ∀ k : Fin 16, t.stack[k] = s.stack[k]
  | .mem => ∀ a : Nat, t.readByte a = s.readByte a
  | .fb => ∀ x y : Nat, t.pixel x y = s.pixel x y
  | .dt => t.dt = s.dt
  | .st => t.st = s.st
  | .keys => ∀ k : Nibble, t.key k = s.key k
  | .fault => t.fault = s.fault
  | .draws => t.draws = s.draws

/-- Every part but the listed ones reads in `t` as it did in `s`. -/
def unchangedBut (ps : List Part) (s t : State) : Prop := ∀ p : Part, p ∉ ps → p.same s t

/-- R124: fresh, equal to the reset state in every element (the model's count of draws is none of them). -/
def State.fresh (s : State) : Prop := unchangedBut [.draws] State.reset s

/-- A safe run: no fault is latched at any point of it (R140). -/
def safeRun (es : List Event) (s : State) : Prop := ∀ n : Nat, (runEvents (es.take n) s).fault = .none

/-! ### Who may write what -/

/-- The parts an instruction may write: registers R10, the system registers R27, the call stack R17, R30, memory R30, R37,
the framebuffer R19. `draws`, written by RND, is the model's own: DESIGN CHOICE (assumption log 1). -/
def partsOf : Instr → List Part
  | .sys _ => [.pc]
  | .cls => [.pc, .fb]
  | .ret => [.pc, .sp, .fault]
  | .jp _ => [.pc]
  | .call _ => [.pc, .sp, .stack, .fault]
  | .seByte _ _ => [.pc]
  | .sneByte _ _ => [.pc]
  | .seReg _ _ => [.pc]
  | .ldByte _ _ => [.pc, .regs]
  | .addByte _ _ => [.pc, .regs]
  | .ldReg _ _ => [.pc, .regs]
  | .orReg _ _ => [.pc, .regs]
  | .andReg _ _ => [.pc, .regs]
  | .xorReg _ _ => [.pc, .regs]
  | .addReg _ _ => [.pc, .regs]
  | .subReg _ _ => [.pc, .regs]
  | .shr _ _ => [.pc, .regs]
  | .subnReg _ _ => [.pc, .regs]
  | .shl _ _ => [.pc, .regs]
  | .sneReg _ _ => [.pc]
  | .ldI _ => [.pc, .i]
  | .jpV0 _ => [.pc]
  | .rnd _ _ => [.pc, .regs, .draws]
  | .drw _ _ _ => [.pc, .regs, .fb]
  | .skp _ => [.pc]
  | .sknp _ => [.pc]
  | .ldVxDT _ => [.pc, .regs]
  | .ldVxK _ => [.pc, .regs]
  | .ldDTVx _ => [.pc, .dt]
  | .ldSTVx _ => [.pc, .st]
  | .addIVx _ => [.pc, .i]
  | .ldFVx _ => [.pc, .i]
  | .ldBVx _ => [.pc, .mem]
  | .storeRegs _ => [.pc, .mem]
  | .loadRegs _ => [.pc, .regs]

/-- The registers an instruction may write: its destination, and VF for the six flag writers (R10, R11). -/
def mayWriteReg (r : Nibble) : Instr → Bool
  | .ldByte x _ => r == x
  | .addByte x _ => r == x
  | .ldReg x _ => r == x
  | .orReg x _ => r == x
  | .andReg x _ => r == x
  | .xorReg x _ => r == x
  | .addReg x _ => r == x || r == 0xF#4
  | .subReg x _ => r == x || r == 0xF#4
  | .shr x _ => r == x || r == 0xF#4
  | .subnReg x _ => r == x || r == 0xF#4
  | .shl x _ => r == x || r == 0xF#4
  | .rnd x _ => r == x
  | .drw _ _ _ => r == 0xF#4
  | .ldVxDT x => r == x
  | .ldVxK x => r == x
  | .loadRegs x => decide (r.toNat ≤ x.toNat)
  | .sys _ => false
  | .cls => false
  | .ret => false
  | .jp _ => false
  | .call _ => false
  | .seByte _ _ => false
  | .sneByte _ _ => false
  | .seReg _ _ => false
  | .sneReg _ _ => false
  | .ldI _ => false
  | .jpV0 _ => false
  | .skp _ => false
  | .sknp _ => false
  | .ldDTVx _ => false
  | .ldSTVx _ => false
  | .addIVx _ => false
  | .ldFVx _ => false
  | .ldBVx _ => false
  | .storeRegs _ => false

/-! ### The sprite in closed form (R113 to R115) -/

/-- Whether the sprite of `n` rows at `I`, drawn at (vx, vy), has a 1 bit on the cell (px, py) of the grid. -/
def spriteOn (s : State) (vx vy n px py : Nat) : Prop :=
  px < 64 ∧ py < 32 ∧ vx ≤ px ∧ px < vx + 8 ∧ vy ≤ py ∧ py < vy + n ∧
    (s.readByte (indexAddr s (py - vy))).getLsbD (7 - (px - vx)) = true

end Sys2Proof.Machine
end

