-- ==== Sys2Proof/Certificates/Slice0/Obligations.lean ====
section
/-! DEFINITION. The statements for the provers. In a statement about an instruction `s` is the state the TICK finds, `t`
the state it leaves, `nextPc s` the address after the instruction; the first clause is the instruction's encoding. -/

open Sys2Proof Sys2Proof.Machine

/-! ### Control transfer (41_control_flow.md) -/

/-- R81: SYS only advances the pc. -/
def Obligations.SysIsNoOp : Prop :=
  ∀ (nnn : Addr) (s : State),
    (nnn ≠ 0x0E0#12 → nnn ≠ 0x0EE#12 → decode (0x0#4 ++ nnn : Word) = .ok (.sys nnn)) ∧
    ∃ t, exec (.sys nnn) s = .next t ∧ t.pc.toNat = nextPc s ∧ unchangedBut [.pc] s t

/-- R82: RET pops the pc, leaves the popped entry in the array, and on an empty stack takes StackUnderflow with nothing
else committed. The pc is stated for an entry below 4096, which every entry a CALL pushed is (R13, R28). -/
def Obligations.RetPopsOrUnderflows : Prop :=
  decode 0x00EE#16 = .ok .ret ∧
  ∀ s : State,
    (∀ k : Fin 16, s.sp.val = k.val + 1 →
      ∃ t, exec .ret s = .next t ∧ t.sp.val = k.val ∧
        ((s.stack[k]).toNat < 4096 → t.pc = s.stack[k]) ∧ unchangedBut [.pc, .sp] s t) ∧
    (s.sp.val = 0 → ∃ t, exec .ret s = .next t ∧ t.fault = .stackUnderflow ∧ unchangedBut [.fault] s t)

/-- R83: JP sets the pc to NNN. -/
def Obligations.JpSetsPc : Prop :=
  ∀ (nnn : Addr) (s : State),
    decode (0x1#4 ++ nnn : Word) = .ok (.jp nnn) ∧
    ∃ t, exec (.jp nnn) s = .next t ∧ t.pc.toNat = nnn.toNat ∧ unchangedBut [.pc] s t

/-- R84: CALL pushes the advanced pc and jumps; on a full stack it takes StackOverflow with nothing else committed. -/
def Obligations.CallPushesOrOverflows : Prop :=
  ∀ (nnn : Addr) (s : State),
    decode (0x2#4 ++ nnn : Word) = .ok (.call nnn) ∧
    (s.sp.val < 16 →
      ∃ t, exec (.call nnn) s = .next t ∧ t.pc.toNat = nnn.toNat ∧ t.sp.val = s.sp.val + 1 ∧
        (∀ k : Fin 16, if k.val = s.sp.val then (t.stack[k]).toNat = nextPc s else t.stack[k] = s.stack[k]) ∧
        unchangedBut [.pc, .sp, .stack] s t) ∧
    (s.sp.val = 16 →
      ∃ t, exec (.call nnn) s = .next t ∧ t.fault = .stackOverflow ∧ unchangedBut [.fault] s t)

/-- R85: skip if Vx equals NN. -/
def Obligations.SeByteSkipsOnEqual : Prop :=
  ∀ (x : Nibble) (nn : Byte) (s : State),
    decode (0x3#4 ++ x ++ nn : Word) = .ok (.seByte x nn) ∧
    ∃ t, exec (.seByte x nn) s = .next t ∧
      t.pc.toNat = (if s.reg x = nn then skipPc s else nextPc s) ∧ unchangedBut [.pc] s t

/-- R86: skip if Vx differs from NN. -/
def Obligations.SneByteSkipsOnDifferent : Prop :=
  ∀ (x : Nibble) (nn : Byte) (s : State),
    decode (0x4#4 ++ x ++ nn : Word) = .ok (.sneByte x nn) ∧
    ∃ t, exec (.sneByte x nn) s = .next t ∧
      t.pc.toNat = (if s.reg x = nn then nextPc s else skipPc s) ∧ unchangedBut [.pc] s t

/-- R87: skip if Vx equals Vy. -/
def Obligations.SeRegSkipsOnEqual : Prop :=
  ∀ (x y : Nibble) (s : State),
    decode (0x5#4 ++ x ++ y ++ 0x0#4 : Word) = .ok (.seReg x y) ∧
    ∃ t, exec (.seReg x y) s = .next t ∧
      t.pc.toNat = (if s.reg x = s.reg y then skipPc s else nextPc s) ∧ unchangedBut [.pc] s t

/-- R88: skip if Vx differs from Vy. -/
def Obligations.SneRegSkipsOnDifferent : Prop :=
  ∀ (x y : Nibble) (s : State),
    decode (0x9#4 ++ x ++ y ++ 0x0#4 : Word) = .ok (.sneReg x y) ∧
    ∃ t, exec (.sneReg x y) s = .next t ∧
      t.pc.toNat = (if s.reg x = s.reg y then nextPc s else skipPc s) ∧ unchangedBut [.pc] s t

/-- R89: jump to NNN plus V0, mod 4096. -/
def Obligations.JpV0AddsV0 : Prop :=
  ∀ (nnn : Addr) (s : State),
    decode (0xB#4 ++ nnn : Word) = .ok (.jpV0 nnn) ∧
    ∃ t, exec (.jpV0 nnn) s = .next t ∧
      t.pc.toNat = (nnn.toNat + (s.reg 0x0#4).toNat) % 4096 ∧ unchangedBut [.pc] s t

/-- R82, R84 together: a CALL and, from any state with its call stack, a RET come back to the address after the CALL. -/
def Obligations.CallThenRetReturns : Prop :=
  ∀ (nnn : Addr) (s t u : State), s.sp.val < 16 → exec (.call nnn) s = .next t → u.sp = t.sp → u.stack = t.stack →
    ∃ v, exec .ret u = .next v ∧ v.pc.toNat = nextPc s ∧ v.sp = s.sp ∧ v.stack = t.stack

/-! ### Loads, arithmetic, logic, shifts, random (42_alu.md) -/

/-- R91: Vx receives NN. -/
def Obligations.LdByteLoadsImmediate : Prop :=
  ∀ (x : Nibble) (nn : Byte) (s : State),
    decode (0x6#4 ++ x ++ nn : Word) = .ok (.ldByte x nn) ∧
    ∃ t, exec (.ldByte x nn) s = .next t ∧ t.pc.toNat = nextPc s ∧
      (∀ r, t.reg r = if r = x then nn else s.reg r) ∧ unchangedBut [.pc, .regs] s t

/-- R92: the immediate add wraps mod 256 and writes no flag. -/
def Obligations.AddByteWritesNoFlag : Prop :=
  ∀ (x : Nibble) (nn : Byte) (s : State),
    decode (0x7#4 ++ x ++ nn : Word) = .ok (.addByte x nn) ∧
    ∃ t, exec (.addByte x nn) s = .next t ∧ t.pc.toNat = nextPc s ∧
      (∀ r, (t.reg r).toNat = if r = x then ((s.reg x).toNat + nn.toNat) % 256 else (s.reg r).toNat) ∧
      unchangedBut [.pc, .regs] s t

/-- R93: Vx receives Vy. -/
def Obligations.LdRegCopies : Prop :=
  ∀ (x y : Nibble) (s : State),
    decode (0x8#4 ++ x ++ y ++ 0x0#4 : Word) = .ok (.ldReg x y) ∧
    ∃ t, exec (.ldReg x y) s = .next t ∧ t.pc.toNat = nextPc s ∧
      (∀ r, t.reg r = if r = x then s.reg y else s.reg r) ∧ unchangedBut [.pc, .regs] s t

/-- R94, R95, R96: the bitwise operations, each bit of Vx on its own; VF is not written. -/
def Obligations.LogicIsBitwise : Prop :=
  ∀ (x y : Nibble) (s : State),
    (decode (0x8#4 ++ x ++ y ++ 0x1#4 : Word) = .ok (.orReg x y) ∧
      ∃ t, exec (.orReg x y) s = .next t ∧ t.pc.toNat = nextPc s ∧
        (∀ b, (t.reg x).getLsbD b = ((s.reg x).getLsbD b || (s.reg y).getLsbD b)) ∧
        (∀ r, r ≠ x → t.reg r = s.reg r) ∧ unchangedBut [.pc, .regs] s t) ∧
    (decode (0x8#4 ++ x ++ y ++ 0x2#4 : Word) = .ok (.andReg x y) ∧
      ∃ t, exec (.andReg x y) s = .next t ∧ t.pc.toNat = nextPc s ∧
        (∀ b, (t.reg x).getLsbD b = ((s.reg x).getLsbD b && (s.reg y).getLsbD b)) ∧
        (∀ r, r ≠ x → t.reg r = s.reg r) ∧ unchangedBut [.pc, .regs] s t) ∧
    (decode (0x8#4 ++ x ++ y ++ 0x3#4 : Word) = .ok (.xorReg x y) ∧
      ∃ t, exec (.xorReg x y) s = .next t ∧ t.pc.toNat = nextPc s ∧
        (∀ b, (t.reg x).getLsbD b = ((s.reg x).getLsbD b ^^ (s.reg y).getLsbD b)) ∧
        (∀ r, r ≠ x → t.reg r = s.reg r) ∧ unchangedBut [.pc, .regs] s t)

/-- R97 (and R103): the sum mod 256, then the carry to VF, which wins when X = 15. -/
def Obligations.AddRegSetsCarry : Prop :=
  ∀ (x y : Nibble) (s : State),
    decode (0x8#4 ++ x ++ y ++ 0x4#4 : Word) = .ok (.addReg x y) ∧
    ∃ t, exec (.addReg x y) s = .next t ∧ t.pc.toNat = nextPc s ∧
      (∀ r, (t.reg r).toNat =
        if r = 0xF#4 then (if (s.reg x).toNat + (s.reg y).toNat > 255 then 1 else 0)
        else if r = x then ((s.reg x).toNat + (s.reg y).toNat) % 256 else (s.reg r).toNat) ∧
      unchangedBut [.pc, .regs] s t

/-- R98 (and R103): Vx - Vy mod 256, then not-borrow to VF. -/
def Obligations.SubRegSetsNotBorrow : Prop :=
  ∀ (x y : Nibble) (s : State),
    decode (0x8#4 ++ x ++ y ++ 0x5#4 : Word) = .ok (.subReg x y) ∧
    ∃ t, exec (.subReg x y) s = .next t ∧ t.pc.toNat = nextPc s ∧
      (∀ r, (t.reg r).toNat =
        if r = 0xF#4 then (if (s.reg x).toNat < (s.reg y).toNat then 0 else 1)
        else if r = x then ((s.reg x).toNat + 256 - (s.reg y).toNat) % 256 else (s.reg r).toNat) ∧
      unchangedBut [.pc, .regs] s t

/-- R99 (and R103): Vx shifted right in place whatever Y, then old bit 0 to VF. -/
def Obligations.ShrShiftsVx : Prop :=
  ∀ (x y : Nibble) (s : State),
    decode (0x8#4 ++ x ++ y ++ 0x6#4 : Word) = .ok (.shr x y) ∧
    ∃ t, exec (.shr x y) s = .next t ∧ t.pc.toNat = nextPc s ∧
      (∀ r, (t.reg r).toNat =
        if r = 0xF#4 then (s.reg x).toNat % 2
        else if r = x then (s.reg x).toNat / 2 else (s.reg r).toNat) ∧
      unchangedBut [.pc, .regs] s t

/-- R100 (and R103): Vy - Vx mod 256, then not-borrow to VF. -/
def Obligations.SubnRegSetsNotBorrow : Prop :=
  ∀ (x y : Nibble) (s : State),
    decode (0x8#4 ++ x ++ y ++ 0x7#4 : Word) = .ok (.subnReg x y) ∧
    ∃ t, exec (.subnReg x y) s = .next t ∧ t.pc.toNat = nextPc s ∧
      (∀ r, (t.reg r).toNat =
        if r = 0xF#4 then (if (s.reg y).toNat < (s.reg x).toNat then 0 else 1)
        else if r = x then ((s.reg y).toNat + 256 - (s.reg x).toNat) % 256 else (s.reg r).toNat) ∧
      unchangedBut [.pc, .regs] s t

/-- R101 (and R103): Vx shifted left in place whatever Y, then old bit 7 to VF. -/
def Obligations.ShlShiftsVx : Prop :=
  ∀ (x y : Nibble) (s : State),
    decode (0x8#4 ++ x ++ y ++ 0xE#4 : Word) = .ok (.shl x y) ∧
    ∃ t, exec (.shl x y) s = .next t ∧ t.pc.toNat = nextPc s ∧
      (∀ r, (t.reg r).toNat =
        if r = 0xF#4 then (s.reg x).toNat / 128
        else if r = x then ((s.reg x).toNat * 2) % 256 else (s.reg r).toNat) ∧
      unchangedBut [.pc, .regs] s t

/-- R102: Vx receives the drawn byte masked by NN, whatever the draw; the next draw is another one. The draw
`Config.rnd s.draws` is a free value (assumption log 1), and this holds for every one. -/
def Obligations.RndMasksADraw : Prop :=
  ∀ (x : Nibble) (nn : Byte) (s : State),
    decode (0xC#4 ++ x ++ nn : Word) = .ok (.rnd x nn) ∧
    ∃ t, exec (.rnd x nn) s = .next t ∧ t.pc.toNat = nextPc s ∧
      (∀ r, t.reg r = if r = x then Config.rnd s.draws &&& nn else s.reg r) ∧ t.draws = s.draws + 1 ∧
      unchangedBut [.pc, .regs, .draws] s t

/-! ### Index register and memory (43_index_memory.md) -/

/-- R105: `I` receives NNN. -/
def Obligations.LdILoadsAddress : Prop :=
  ∀ (nnn : Addr) (s : State),
    decode (0xA#4 ++ nnn : Word) = .ok (.ldI nnn) ∧
    ∃ t, exec (.ldI nnn) s = .next t ∧ t.pc.toNat = nextPc s ∧ t.i.toNat = nnn.toNat ∧ unchangedBut [.pc, .i] s t

/-- R106: `I` plus Vx mod 65536, no flag. -/
def Obligations.AddIVxWrapsAt16Bits : Prop :=
  ∀ (x : Nibble) (s : State),
    decode (0xF#4 ++ x ++ 0x1E#8 : Word) = .ok (.addIVx x) ∧
    ∃ t, exec (.addIVx x) s = .next t ∧ t.pc.toNat = nextPc s ∧
      t.i.toNat = (s.i.toNat + (s.reg x).toNat) % 65536 ∧ unchangedBut [.pc, .i] s t

/-- R107: `I` receives five times the low nibble of Vx. -/
def Obligations.LdFVxComputesFontAddress : Prop :=
  ∀ (x : Nibble) (s : State),
    decode (0xF#4 ++ x ++ 0x29#8 : Word) = .ok (.ldFVx x) ∧
    ∃ t, exec (.ldFVx x) s = .next t ∧ t.pc.toNat = nextPc s ∧
      t.i.toNat = 5 * ((s.reg x).toNat % 16) ∧ unchangedBut [.pc, .i] s t

/-- R108: the decimal digits of Vx at `I`, `I + 1`, `I + 2`, and no other byte. -/
def Obligations.LdBVxStoresDigits : Prop :=
  ∀ (x : Nibble) (s : State),
    decode (0xF#4 ++ x ++ 0x33#8 : Word) = .ok (.ldBVx x) ∧
    ∃ t, exec (.ldBVx x) s = .next t ∧ t.pc.toNat = nextPc s ∧
      (t.readByte (indexAddr s 0)).toNat = (s.reg x).toNat / 100 ∧
      (t.readByte (indexAddr s 1)).toNat = (s.reg x).toNat / 10 % 10 ∧
      (t.readByte (indexAddr s 2)).toNat = (s.reg x).toNat % 10 ∧
      (∀ a : Nat, (∀ k : Nat, k < 3 → a % 4096 ≠ indexAddr s k % 4096) → t.readByte a = s.readByte a) ∧
      unchangedBut [.pc, .mem] s t

/-- R109: V0 to Vx at `I` on, and no other byte; `I` unchanged. -/
def Obligations.StoreRegsStoresV0ToVx : Prop :=
  ∀ (x : Nibble) (s : State),
    decode (0xF#4 ++ x ++ 0x55#8 : Word) = .ok (.storeRegs x) ∧
    ∃ t, exec (.storeRegs x) s = .next t ∧ t.pc.toNat = nextPc s ∧
      (∀ r : Nibble, r.toNat ≤ x.toNat → t.readByte (indexAddr s r.toNat) = s.reg r) ∧
      (∀ a : Nat, (∀ k : Nat, k ≤ x.toNat → a % 4096 ≠ indexAddr s k % 4096) → t.readByte a = s.readByte a) ∧
      unchangedBut [.pc, .mem] s t

/-- R110: V0 to Vx from `I` on; the registers above Vx and `I` unchanged. -/
def Obligations.LoadRegsLoadsV0ToVx : Prop :=
  ∀ (x : Nibble) (s : State),
    decode (0xF#4 ++ x ++ 0x65#8 : Word) = .ok (.loadRegs x) ∧
    ∃ t, exec (.loadRegs x) s = .next t ∧ t.pc.toNat = nextPc s ∧
      (∀ r : Nibble, t.reg r = if r.toNat ≤ x.toNat then s.readByte (indexAddr s r.toNat) else s.reg r) ∧
      unchangedBut [.pc, .regs] s t

/-- R46: registers stored over the next instruction are what the next TICK fetches. -/
def Obligations.StoredCodeIsFetchedNext : Prop :=
  ∀ (x : Nibble) (s : State), 1 ≤ x.toNat → indexAddr s 0 % 4096 = nextPc s →
    ∃ t, exec (.storeRegs x) s = .next t ∧ t.fetch = (s.reg 0x0#4 ++ s.reg 0x1#4 : Word)

/-! ### Display (44_display.md) -/

/-- R112: every cell off, no flag. -/
def Obligations.ClsClearsDisplay : Prop :=
  decode 0x00E0#16 = .ok .cls ∧
  ∀ s : State, ∃ t, exec .cls s = .next t ∧ t.pc.toNat = nextPc s ∧ (∀ x y, t.pixel x y = false) ∧
    unchangedBut [.pc, .fb] s t

/-- R113 to R115: the loops of DRW in closed form. A cell is toggled exactly where the clipped sprite has a 1 bit, and VF
says whether some cell went from on to off. -/
def Obligations.DrwTogglesSpriteCells : Prop :=
  ∀ (x y n : Nibble) (s : State),
    decode (0xD#4 ++ x ++ y ++ n : Word) = .ok (.drw x y n) ∧
    ∃ t, exec (.drw x y n) s = .next t ∧ t.pc.toNat = nextPc s ∧
      (∀ px py, spriteOn s (s.reg x).toNat (s.reg y).toNat n.toNat px py → t.pixel px py = !s.pixel px py) ∧
      (∀ px py, ¬ spriteOn s (s.reg x).toNat (s.reg y).toNat n.toNat px py → t.pixel px py = s.pixel px py) ∧
      ((∃ px py, s.pixel px py = true ∧ t.pixel px py = false) → t.reg 0xF#4 = 0x01#8) ∧
      ((¬ ∃ px py, s.pixel px py = true ∧ t.pixel px py = false) → t.reg 0xF#4 = 0x00#8) ∧
      (∀ r, r ≠ 0xF#4 → t.reg r = s.reg r) ∧
      unchangedBut [.pc, .regs, .fb] s t

/-- From R113: the same sprite drawn twice at the same place restores the framebuffer, and the second draw sets VF exactly
when the sprite has a 1 bit on a cell that was off. (R113's corner case says so without the last condition, which its
pseudocode needs: assumption log 12.) -/
def Obligations.DrwTwiceRestores : Prop :=
  ∀ (x y n : Nibble) (s t : State), x ≠ 0xF#4 → y ≠ 0xF#4 → exec (.drw x y n) s = .next t →
    ∃ u, exec (.drw x y n) t = .next u ∧ (∀ px py, u.pixel px py = s.pixel px py) ∧
      (u.reg 0xF#4 = 0x01#8 ↔
        ∃ px py, spriteOn s (s.reg x).toNat (s.reg y).toNat n.toNat px py ∧ s.pixel px py = false)

/-! ### Keypad and timers (45_keypad_timers.md) -/

/-- R116, R117, R122: skip if the key numbered by the low nibble of Vx is pressed (SKP), or is not (SKNP). -/
def Obligations.KeySkipsTestLowNibble : Prop :=
  ∀ (x : Nibble) (s : State),
    (decode (0xE#4 ++ x ++ 0x9E#8 : Word) = .ok (.skp x) ∧
      ∃ t, exec (.skp x) s = .next t ∧
        t.pc.toNat = (if s.key (BitVec.ofNat 4 ((s.reg x).toNat % 16)) = true then skipPc s else nextPc s) ∧
        unchangedBut [.pc] s t) ∧
    (decode (0xE#4 ++ x ++ 0xA1#8 : Word) = .ok (.sknp x) ∧
      ∃ t, exec (.sknp x) s = .next t ∧
        t.pc.toNat = (if s.key (BitVec.ofNat 4 ((s.reg x).toNat % 16)) = true then nextPc s else skipPc s) ∧
        unchangedBut [.pc] s t)

/-- R118: the least pressed key goes to Vx; with none pressed the whole state stays, so the next TICK tries again. -/
def Obligations.LdVxKTakesLeastKeyOrWaits : Prop :=
  ∀ (x : Nibble) (s : State),
    decode (0xF#4 ++ x ++ 0x0A#8 : Word) = .ok (.ldVxK x) ∧
    (∀ k : Nibble, s.key k = true → (∀ j : Nibble, j.toNat < k.toNat → s.key j = false) →
      ∃ t, exec (.ldVxK x) s = .next t ∧ t.pc.toNat = nextPc s ∧
        (∀ r, (t.reg r).toNat = if r = x then k.toNat else (s.reg r).toNat) ∧ unchangedBut [.pc, .regs] s t) ∧
    ((∀ k : Nibble, s.key k = false) → exec (.ldVxK x) s = .next s)

/-- R119: Vx receives DT. -/
def Obligations.LdVxDTReadsTimer : Prop :=
  ∀ (x : Nibble) (s : State),
    decode (0xF#4 ++ x ++ 0x07#8 : Word) = .ok (.ldVxDT x) ∧
    ∃ t, exec (.ldVxDT x) s = .next t ∧ t.pc.toNat = nextPc s ∧
      (∀ r, t.reg r = if r = x then s.dt else s.reg r) ∧ unchangedBut [.pc, .regs] s t

/-- R120, R121: DT, and ST, receive Vx. -/
def Obligations.TimersReceiveVx : Prop :=
  ∀ (x : Nibble) (s : State),
    (decode (0xF#4 ++ x ++ 0x15#8 : Word) = .ok (.ldDTVx x) ∧
      ∃ t, exec (.ldDTVx x) s = .next t ∧ t.pc.toNat = nextPc s ∧ t.dt = s.reg x ∧ unchangedBut [.pc, .dt] s t) ∧
    (decode (0xF#4 ++ x ++ 0x18#8 : Word) = .ok (.ldSTVx x) ∧
      ∃ t, exec (.ldSTVx x) s = .next t ∧ t.pc.toNat = nextPc s ∧ t.st = s.reg x ∧ unchangedBut [.pc, .st] s t)

/-! ### Encoding (30_encoding.md) -/

/-- Some words of the table, written out bit by bit, decode to the instructions they stand for. -/
def Obligations.SampleWordsDecode : Prop :=
  decode 0b0001101010111100#16 = .ok (.jp 0xABC#12) ∧
  decode 0b1101010110100111#16 = .ok (.drw 0x5#4 0xA#4 0x7#4) ∧
  decode 0b1000101010110100#16 = .ok (.addReg 0xA#4 0xB#4) ∧
  decode 0b1111001001100101#16 = .ok (.loadRegs 0x2#4) ∧
  decode 0b1110010110100001#16 = .ok (.sknp 0x5#4) ∧
  decode 0b0000000011100001#16 = .ok (.sys 0x0E1#12)

/-- Decode and encode agree: every well-formed instruction, with every operand value, is read back from its word. -/
def Obligations.DecodeOfEncode : Prop :=
  ∀ i : Instr, i.wf = true → decode (encode i) = .ok i

/-- Each word has one meaning: what decodes to `i` is the word of `i`, and `i` is well formed. -/
def Obligations.DecodeIsExact : Prop :=
  ∀ (w : Word) (i : Instr), decode w = .ok i → i.wf = true ∧ encode i = w

/-- R54: a word decodes to an instruction of a row only if it matches that row, and is rejected exactly when it matches
no row; of two rows it matches, one is SYS, and the other wins. -/
def Obligations.DecodeFollowsTable : Prop :=
  ∀ w : Word,
    (∀ i, decode w = .ok i → rowMatches i.row w = true) ∧
    ((∃ r, decode w = .error r) ↔ ∀ row ∈ opcodeTable, rowMatches row w = false) ∧
    (∀ row ∈ opcodeTable, ∀ row' ∈ opcodeTable, row ≠ row' → rowMatches row w = true → rowMatches row' w = true →
      row = (0xF000#16, 0x0000#16) ∨ row' = (0xF000#16, 0x0000#16)) ∧
    (∀ row ∈ opcodeTable, row ≠ (0xF000#16, 0x0000#16) → rowMatches row w = true →
      ∃ i, decode w = .ok i ∧ i.row = row)

/-- R59: the unrecognized words, family by family. -/
def Obligations.UnrecognizedSpaceIsExact : Prop :=
  ∀ w : Word, (∃ r, decode w = .error r) ↔
    (w.toNat / 4096 = 5 ∧ w.toNat % 16 ≠ 0) ∨
    (w.toNat / 4096 = 8 ∧ w.toNat % 16 ∈ [8, 9, 10, 11, 12, 13, 15]) ∨
    (w.toNat / 4096 = 9 ∧ w.toNat % 16 ≠ 0) ∨
    (w.toNat / 4096 = 14 ∧ w.toNat % 256 ∉ [0x9E, 0xA1]) ∨
    (w.toNat / 4096 = 15 ∧ w.toNat % 256 ∉ [0x07, 0x0A, 0x15, 0x18, 0x1E, 0x29, 0x33, 0x55, 0x65])

/-! ### The TICK (40_execution_cycle.md) -/

/-- R70, R71: a TICK of a CORE that is not halted fetches the two bytes at the pc, high byte first, and runs the
instruction they decode to, which is well formed (R54). That `exec` is the whole of its effect, the pc's advance included,
is the model's arrangement, where R71 puts the advance in the fetch: DESIGN CHOICE (assumption log 10). -/
def Obligations.StepRunsDecodedInstr : Prop :=
  ∀ (s : State) (i : Instr), s.fault = .none →
    decodeBytes [s.readByte s.pc.toNat, s.readByte (s.pc.toNat + 1)] = .ok (i, []) →
    i.wf = true ∧ step s = exec i s

/-- R58: a word that decodes to nothing only advances the pc. -/
def Obligations.UnrecognizedIsNoOp : Prop :=
  ∀ (s : State) (r : Reject), s.fault = .none → decode s.fetch = .error r →
    ∃ t, step s = .next t ∧ t.pc.toNat = nextPc s ∧ unchangedBut [.pc] s t

/-- R75: a halted CORE ignores TICKs, while ADVANCE_TIMERS and KEYPRESS still act and RESET clears the fault. -/
def Obligations.HaltedIgnoresTicks : Prop :=
  ∀ s : State, s.halted →
    step s = .next s ∧
    (∃ t, applyEvent .advanceTimers s = .next t ∧ t.dt.toNat = s.dt.toNat - 1 ∧ t.st.toNat = s.st.toNat - 1 ∧
      unchangedBut [.dt, .st] s t) ∧
    (∀ (k : Nibble) (p : Bool), ∃ t, applyEvent (.keypress k.toNat p) s = .next t ∧
      (∀ j, t.key j = if j = k then p else s.key j) ∧ unchangedBut [.keys] s t) ∧
    (∃ t, applyEvent .reset s = .next t ∧ t.fault = .none)

/-- R77: a TICK that raises commits nothing but the latch, and only CALL on a full stack and RET on an empty one raise. -/
def Obligations.FaultCommitsOnlyTheLatch : Prop :=
  ∀ s t : State, s.fault = .none → step s = .next t → t.fault ≠ .none →
    unchangedBut [.fault] s t ∧
    (((∃ nnn, decode s.fetch = .ok (.call nnn)) ∧ s.sp.val = 16 ∧ t.fault = .stackOverflow) ∨
      (decode s.fetch = .ok .ret ∧ s.sp.val = 0 ∧ t.fault = .stackUnderflow))

/-- R70, R33, R145: no condition stops the machine: from every state, reachable or not, a TICK ends in a next state. That
CALL on a full stack, RET on an empty one and a halted TICK (R75, R77) do so too is the model's choice, as R23 allows a fault
outcome instead: assumption logs 2 (DESIGN CHOICE) and 3 (DEDUCED). -/
def Obligations.EveryTickAnswers : Prop := ∀ s : State, ∃ t, step s = .next t

/-- R74, R79: what a TICK leaves alone: the keys always, DT and ST unless `LD DT, Vx` or `LD ST, Vx` runs, and the fault
latch unless CALL or RET raises. -/
def Obligations.TickLeavesTimersAndKeys : Prop :=
  ∀ s t : State, step s = .next t →
    (∀ k, t.key k = s.key k) ∧
    ((∀ x, decode s.fetch ≠ .ok (.ldDTVx x)) → t.dt = s.dt) ∧
    ((∀ x, decode s.fetch ≠ .ok (.ldSTVx x)) → t.st = s.st) ∧
    ((∀ nnn, decode s.fetch ≠ .ok (.call nnn)) → decode s.fetch ≠ .ok .ret → t.fault = s.fault)

/-- R10, R17, R19, R27, R30, R37, R74: each part of the state is written only by the instructions the rules name for it. The
clause on `draws` is about the model's own field: DESIGN CHOICE (assumption log 1). -/
def Obligations.PartsWrittenOnlyAsTabled : Prop :=
  ∀ (i : Instr) (s t : State), exec i s = .next t → unchangedBut (partsOf i) s t

/-- R10, R11: a register changes only under an instruction that names it, or as VF under one of the six flag writers. -/
def Obligations.RegsWrittenOnlyAsTabled : Prop :=
  ∀ (i : Instr) (s t : State) (r : Nibble), exec i s = .next t → t.reg r ≠ s.reg r → mayWriteReg r i = true

/-- R78 (1): at a jump to itself every further TICK leaves the whole state unchanged, and such a run is safe. -/
def Obligations.IdleLoopIsFixed : Prop :=
  ∀ (s : State) (n : Nat), s.idle →
    runEvents (List.replicate n .tick) s = s ∧ safeRun (List.replicate n .tick) s

/-! ### Invariants (10_state.md) -/

/-- R28: the invariant of reachable states is kept by every TICK. Its clause on the memory list is about the model's own form
of memory: DESIGN CHOICE (assumption log 5). -/
def Obligations.StepKeepsInv : Prop := ∀ s t : State, s.Inv → step s = .next t → t.Inv

/-- R26, R28: the invariant holds after reset. Its clause on the memory list is about the model's own form of memory, of which
no rule speaks: DESIGN CHOICE (assumption log 5). -/
def Obligations.ResetHasInv : Prop := State.reset.Inv

/-- R28: the invariant is kept by every sequence of host events, TICKs among them. Its clause on the memory list is about the
model's own form of memory: DESIGN CHOICE (assumption log 5). -/
def Obligations.EventsKeepInv : Prop := ∀ (es : List Event) (s : State), s.Inv → (runEvents es s).Inv

/-- R28, last clause: once a fault is latched, nothing changes but DT, ST, the keys and memory, until RESET. -/
def Obligations.HaltedUntilReset : Prop :=
  ∀ (es : List Event) (s : State), s.halted → Event.reset ∉ es →
    unchangedBut [.dt, .st, .keys, .mem] s (runEvents es s)

/-- R26: the reset value of every element. -/
def Obligations.ResetValues : Prop :=
  (∀ r, State.reset.reg r = 0x00#8) ∧ State.reset.pc = 0x0200#16 ∧ State.reset.i = 0x0000#16 ∧
  State.reset.sp.val = 0 ∧ (∀ k : Fin 16, State.reset.stack[k] = 0x0000#16) ∧
  (∀ a, State.reset.readByte a = 0x00#8) ∧ (∀ x y, State.reset.pixel x y = false) ∧
  (∀ k, State.reset.key k = false) ∧ State.reset.dt = 0x00#8 ∧ State.reset.st = 0x00#8 ∧
  State.reset.fault = .none

/-! ### Host operations (46_host_operations.md) -/

/-- R123: RESET gives the fresh state from any state, halted or not, and RESET twice is RESET once. -/
def Obligations.ResetEventIsFresh : Prop :=
  ∀ s : State, ∃ t, applyEvent .reset s = .next t ∧ t.fresh ∧ applyEvent .reset t = .next t

/-- R125: LOAD copies the bytes to 512 on, and changes nothing else. -/
def Obligations.LoadCopiesBytes : Prop :=
  ∀ (bytes : List Byte) (s : State), bytes.length ≤ 3584 →
    ∃ t, applyEvent (.load bytes) s = .next t ∧
      (∀ (n : Nat) (h : n < bytes.length), t.readByte (512 + n) = bytes[n]) ∧
      (∀ a : Nat, a < 512 → t.readByte a = s.readByte a) ∧
      (∀ a : Nat, 512 + bytes.length ≤ a → a < 4096 → t.readByte a = s.readByte a) ∧
      unchangedBut [.mem] s t

/-- R126: a longer LOAD is refused with CapacityExceeded, and the state stays as it was. -/
def Obligations.LoadTooLongIsRefused : Prop :=
  ∀ (bytes : List Byte) (s : State), 3584 < bytes.length →
    applyEvent (.load bytes) s = .refused (.capacityExceeded bytes.length) ∧ afterEvent s (.load bytes) = s

/-- R127: ADVANCE_TIMERS takes 1 from each timer that is not zero, and changes nothing else. -/
def Obligations.AdvanceTimersCountsDown : Prop :=
  ∀ s : State, ∃ t, applyEvent .advanceTimers s = .next t ∧
    t.dt.toNat = (if s.dt.toNat = 0 then 0 else s.dt.toNat - 1) ∧
    t.st.toNat = (if s.st.toNat = 0 then 0 else s.st.toNat - 1) ∧ unchangedBut [.dt, .st] s t

/-- R128: KEYPRESS sets one key bit; an index above 15 is refused with no state change. -/
def Obligations.KeypressSetsOneKey : Prop :=
  ∀ (k : Nat) (p : Bool) (s : State),
    (k < 16 → ∃ t, applyEvent (.keypress k p) s = .next t ∧
      (∀ j : Nibble, t.key j = if j.toNat = k then p else s.key j) ∧ unchangedBut [.keys] s t) ∧
    (15 < k → applyEvent (.keypress k p) s = .refused (.keyIndexOutOfRange k) ∧ afterEvent s (.keypress k p) = s)

/-- R129, R133, R140: GET_DISPLAY's element y * 64 + x is the cell (x, y); the tone is on exactly when ST is not zero; the
fault output is 0, 1 or 2 by the latch. -/
def Obligations.AccessorsShowTheState : Prop :=
  ∀ s : State,
    (∀ (x y : Nat) (hx : x < 64) (hy : y < 32), (getDisplay s)[y * 64 + x]'(by omega) = s.pixel x y) ∧
    (soundActive s = true ↔ (getSoundTimer s).toNat ≠ 0) ∧
    ((getFault s).toNat = 0 ↔ s.fault = .none) ∧
    ((getFault s).toNat = 1 ↔ s.fault = .stackOverflow) ∧
    ((getFault s).toNat = 2 ↔ s.fault = .stackUnderflow)

/-- R132: a TICK requested together with a timer tick comes first: `LD Vx, DT` reads the value before the decrement, and
`LD DT, Vx` of n leaves n - 1. -/
def Obligations.TickBeforeTimersAtOneInstant : Prop :=
  ∀ (x : Nibble) (s : State), s.fault = .none →
    (decode s.fetch = .ok (.ldVxDT x) →
      (serve ⟨false, none, none, true, true⟩ s).reg x = s.dt ∧
      (serve ⟨false, none, none, true, true⟩ s).dt.toNat = s.dt.toNat - 1) ∧
    (decode s.fetch = .ok (.ldDTVx x) →
      (serve ⟨false, none, none, true, true⟩ s).dt.toNat = (s.reg x).toNat - 1)
end

