-- ==== Sys2Proof/Laws/Decode.lean ====
section
/-! SUPPORT. The fields of a word in each format, and the byte order of a word. -/

namespace Sys2Proof

/-! ### The bits and the fields of each format (R52) -/

theorem getLsbD_fmtAddr (f : Nibble) (nnn : Addr) (i : Nat) :
    (fmtAddr f nnn).getLsbD i = if i < 12 then nnn.getLsbD i else f.getLsbD (i - 12) :=
  BitVec.getLsbD_append

theorem getLsbD_fmtRegImm (f x : Nibble) (nn : Byte) (i : Nat) :
    (fmtRegImm f x nn).getLsbD i =
      if i < 8 then nn.getLsbD i else if i < 12 then x.getLsbD (i - 8) else f.getLsbD (i - 12) := by
  have h := BitVec.getLsbD_append (x := f ++ x) (y := nn) (i := i)
  have h' := BitVec.getLsbD_append (x := f) (y := x) (i := i - 8)
  refine h.trans ?_
  split
  · rfl
  · rw [h', show i - 8 - 4 = i - 12 by omega]
    simp only [show i - 8 < 4 ↔ i < 12 by omega]

theorem getLsbD_fmtRegReg (f x y n : Nibble) (i : Nat) :
    (fmtRegReg f x y n).getLsbD i =
      if i < 4 then n.getLsbD i else if i < 8 then y.getLsbD (i - 4)
      else if i < 12 then x.getLsbD (i - 8) else f.getLsbD (i - 12) := by
  have h := BitVec.getLsbD_append (x := f ++ x ++ y) (y := n) (i := i)
  have h' := BitVec.getLsbD_append (x := f ++ x) (y := y) (i := i - 4)
  have h'' := BitVec.getLsbD_append (x := f) (y := x) (i := i - 4 - 4)
  refine h.trans ?_
  split
  · rfl
  · rw [h', h'', show i - 4 - 4 - 4 = i - 12 by omega, show i - 4 - 4 = i - 8 by omega]
    simp only [show i - 4 < 4 ↔ i < 8 by omega, show i - 8 < 4 ↔ i < 12 by omega]

@[simp] theorem fieldF_fmtAddr (f : Nibble) (nnn : Addr) : fieldF (fmtAddr f nnn) = f := by
  refine BitVec.eq_of_getLsbD_eq fun i hi => ?_
  rw [fieldF, BitVec.getLsbD_extractLsb', getLsbD_fmtAddr]
  rw [if_neg (show ¬ 12 + i < 12 by omega), show 12 + i - 12 = i by omega]
  simp [hi]

@[simp] theorem fieldNNN_fmtAddr (f : Nibble) (nnn : Addr) : fieldNNN (fmtAddr f nnn) = nnn := by
  refine BitVec.eq_of_getLsbD_eq fun i hi => ?_
  rw [fieldNNN, BitVec.getLsbD_extractLsb', getLsbD_fmtAddr]
  rw [if_pos (show 0 + i < 12 by omega), Nat.zero_add]
  simp [hi]

@[simp] theorem fieldF_fmtRegImm (f x : Nibble) (nn : Byte) : fieldF (fmtRegImm f x nn) = f := by
  refine BitVec.eq_of_getLsbD_eq fun i hi => ?_
  rw [fieldF, BitVec.getLsbD_extractLsb', getLsbD_fmtRegImm]
  rw [if_neg (show ¬ 12 + i < 8 by omega), if_neg (show ¬ 12 + i < 12 by omega), show 12 + i - 12 = i by omega]
  simp [hi]

@[simp] theorem fieldX_fmtRegImm (f x : Nibble) (nn : Byte) : fieldX (fmtRegImm f x nn) = x := by
  refine BitVec.eq_of_getLsbD_eq fun i hi => ?_
  rw [fieldX, BitVec.getLsbD_extractLsb', getLsbD_fmtRegImm]
  rw [if_neg (show ¬ 8 + i < 8 by omega), if_pos (show 8 + i < 12 by omega), show 8 + i - 8 = i by omega]
  simp [hi]

@[simp] theorem fieldNN_fmtRegImm (f x : Nibble) (nn : Byte) : fieldNN (fmtRegImm f x nn) = nn := by
  refine BitVec.eq_of_getLsbD_eq fun i hi => ?_
  rw [fieldNN, BitVec.getLsbD_extractLsb', getLsbD_fmtRegImm]
  rw [if_pos (show 0 + i < 8 by omega), Nat.zero_add]
  simp [hi]

@[simp] theorem fieldF_fmtRegReg (f x y n : Nibble) : fieldF (fmtRegReg f x y n) = f := by
  refine BitVec.eq_of_getLsbD_eq fun i hi => ?_
  rw [fieldF, BitVec.getLsbD_extractLsb', getLsbD_fmtRegReg]
  rw [if_neg (show ¬ 12 + i < 4 by omega), if_neg (show ¬ 12 + i < 8 by omega), if_neg (show ¬ 12 + i < 12 by omega), show 12 + i - 12 = i by omega]
  simp [hi]

@[simp] theorem fieldX_fmtRegReg (f x y n : Nibble) : fieldX (fmtRegReg f x y n) = x := by
  refine BitVec.eq_of_getLsbD_eq fun i hi => ?_
  rw [fieldX, BitVec.getLsbD_extractLsb', getLsbD_fmtRegReg]
  rw [if_neg (show ¬ 8 + i < 4 by omega), if_neg (show ¬ 8 + i < 8 by omega), if_pos (show 8 + i < 12 by omega), show 8 + i - 8 = i by omega]
  simp [hi]

@[simp] theorem fieldY_fmtRegReg (f x y n : Nibble) : fieldY (fmtRegReg f x y n) = y := by
  refine BitVec.eq_of_getLsbD_eq fun i hi => ?_
  rw [fieldY, BitVec.getLsbD_extractLsb', getLsbD_fmtRegReg]
  rw [if_neg (show ¬ 4 + i < 4 by omega), if_pos (show 4 + i < 8 by omega), show 4 + i - 4 = i by omega]
  simp [hi]

@[simp] theorem fieldN_fmtRegReg (f x y n : Nibble) : fieldN (fmtRegReg f x y n) = n := by
  refine BitVec.eq_of_getLsbD_eq fun i hi => ?_
  rw [fieldN, BitVec.getLsbD_extractLsb', getLsbD_fmtRegReg]
  rw [if_pos (show 0 + i < 4 by omega), Nat.zero_add]
  simp [hi]

/-! ### Words and their fields -/

/-- A word is its family nibble and its NNN. -/
theorem fmtAddr_fields (w : Word) : fmtAddr (fieldF w) (fieldNNN w) = w := by
  simp only [fmtAddr, fieldF, fieldNNN]; ext i hi
  simp only [BitVec.getElem_append, BitVec.getElem_extractLsb', Nat.zero_add]
  split
  · exact BitVec.getLsbD_eq_getElem hi
  · rw [show 12 + (i - 12) = i by omega]; exact BitVec.getLsbD_eq_getElem hi

/-- A word is F, X and NN. -/
theorem fmtRegImm_fields (w : Word) : fmtRegImm (fieldF w) (fieldX w) (fieldNN w) = w := by
  simp only [fmtRegImm, fieldF, fieldX, fieldNN]; ext i hi
  simp only [BitVec.getElem_append, BitVec.getElem_extractLsb', Nat.zero_add]
  split
  · exact BitVec.getLsbD_eq_getElem hi
  · split
    · rw [show 8 + (i - 8) = i by omega]; exact BitVec.getLsbD_eq_getElem hi
    · rw [show 12 + (i - 8 - 4) = i by omega]; exact BitVec.getLsbD_eq_getElem hi

/-- A word is F, X, Y and N. -/
theorem fmtRegReg_fields (w : Word) : fmtRegReg (fieldF w) (fieldX w) (fieldY w) (fieldN w) = w := by
  simp only [fmtRegReg, fieldF, fieldX, fieldY, fieldN]; ext i hi
  simp only [BitVec.getElem_append, BitVec.getElem_extractLsb', Nat.zero_add]
  split
  · exact BitVec.getLsbD_eq_getElem hi
  · split
    · rw [show 4 + (i - 4) = i by omega]; exact BitVec.getLsbD_eq_getElem hi
    · split
      · rw [show 8 + (i - 4 - 4) = i by omega]; exact BitVec.getLsbD_eq_getElem hi
      · rw [show 12 + (i - 4 - 4 - 4) = i by omega]; exact BitVec.getLsbD_eq_getElem hi

/-- Splitting a word into its bytes and joining them again (R34). -/
@[simp] theorem wordOfBytes_bytes (w : Word) : wordOfBytes (wordHi w) (wordLo w) = w := by
  simp only [wordOfBytes, wordHi, wordLo]; ext i hi
  simp only [BitVec.getElem_append, BitVec.getElem_extractLsb', Nat.zero_add]
  split
  · exact BitVec.getLsbD_eq_getElem hi
  · rw [show 8 + (i - 8) = i by omega]; exact BitVec.getLsbD_eq_getElem hi

/-- Decoding two bytes is decoding the word they make. -/
theorem decodeBytes_pair (hi lo : Byte) (i : Instr) :
    decodeBytes [hi, lo] = .ok (i, []) ↔ decode (wordOfBytes hi lo) = .ok i := by
  simp only [decodeBytes]
  split
  · next j h => rw [h]; constructor <;> intro e <;> cases e <;> rfl
  · next r h => rw [h]; constructor <;> intro e <;> cases e

end Sys2Proof
end

