-- ==== Sys2Proof/Laws/State.lean ====
section
/-! SUPPORT. What each update of the state does to each field, and to each read: true by definition. -/

namespace Sys2Proof.Machine

/-! ### setReg -/

@[simp] theorem setReg_regs (s : State) (x : Nibble) (v : Byte) :
    (s.setReg x v).regs = s.regs.set x.toNat v x.isLt := rfl
@[simp] theorem setReg_pc (s : State) (x : Nibble) (v : Byte) :
    (s.setReg x v).pc = s.pc := rfl
@[simp] theorem setReg_i (s : State) (x : Nibble) (v : Byte) :
    (s.setReg x v).i = s.i := rfl
@[simp] theorem setReg_sp (s : State) (x : Nibble) (v : Byte) :
    (s.setReg x v).sp = s.sp := rfl
@[simp] theorem setReg_stack (s : State) (x : Nibble) (v : Byte) :
    (s.setReg x v).stack = s.stack := rfl
@[simp] theorem setReg_mem (s : State) (x : Nibble) (v : Byte) :
    (s.setReg x v).mem = s.mem := rfl
@[simp] theorem setReg_fb (s : State) (x : Nibble) (v : Byte) :
    (s.setReg x v).fb = s.fb := rfl
@[simp] theorem setReg_dt (s : State) (x : Nibble) (v : Byte) :
    (s.setReg x v).dt = s.dt := rfl
@[simp] theorem setReg_st (s : State) (x : Nibble) (v : Byte) :
    (s.setReg x v).st = s.st := rfl
@[simp] theorem setReg_keys (s : State) (x : Nibble) (v : Byte) :
    (s.setReg x v).keys = s.keys := rfl
@[simp] theorem setReg_fault (s : State) (x : Nibble) (v : Byte) :
    (s.setReg x v).fault = s.fault := rfl
@[simp] theorem setReg_draws (s : State) (x : Nibble) (v : Byte) :
    (s.setReg x v).draws = s.draws := rfl
@[simp] theorem setReg_key (s : State) (x : Nibble) (v : Byte) (j : Nibble) :
    (s.setReg x v).key j = s.key j := rfl
@[simp] theorem setReg_readByte (s : State) (x : Nibble) (v : Byte) (b : Nat) :
    (s.setReg x v).readByte b = s.readByte b := rfl
@[simp] theorem setReg_pixel (s : State) (x : Nibble) (v : Byte) (px py : Nat) :
    (s.setReg x v).pixel px py = s.pixel px py := rfl

/-! ### setPc -/

@[simp] theorem setPc_regs (s : State) (n : Nat) :
    (s.setPc n).regs = s.regs := rfl
@[simp] theorem setPc_pc (s : State) (n : Nat) :
    (s.setPc n).pc = BitVec.ofNat 16 (wrapAddr n) := rfl
@[simp] theorem setPc_i (s : State) (n : Nat) :
    (s.setPc n).i = s.i := rfl
@[simp] theorem setPc_sp (s : State) (n : Nat) :
    (s.setPc n).sp = s.sp := rfl
@[simp] theorem setPc_stack (s : State) (n : Nat) :
    (s.setPc n).stack = s.stack := rfl
@[simp] theorem setPc_mem (s : State) (n : Nat) :
    (s.setPc n).mem = s.mem := rfl
@[simp] theorem setPc_fb (s : State) (n : Nat) :
    (s.setPc n).fb = s.fb := rfl
@[simp] theorem setPc_dt (s : State) (n : Nat) :
    (s.setPc n).dt = s.dt := rfl
@[simp] theorem setPc_st (s : State) (n : Nat) :
    (s.setPc n).st = s.st := rfl
@[simp] theorem setPc_keys (s : State) (n : Nat) :
    (s.setPc n).keys = s.keys := rfl
@[simp] theorem setPc_fault (s : State) (n : Nat) :
    (s.setPc n).fault = s.fault := rfl
@[simp] theorem setPc_draws (s : State) (n : Nat) :
    (s.setPc n).draws = s.draws := rfl
@[simp] theorem setPc_reg (s : State) (n : Nat) (r : Nibble) :
    (s.setPc n).reg r = s.reg r := rfl
@[simp] theorem setPc_key (s : State) (n : Nat) (j : Nibble) :
    (s.setPc n).key j = s.key j := rfl
@[simp] theorem setPc_readByte (s : State) (n : Nat) (b : Nat) :
    (s.setPc n).readByte b = s.readByte b := rfl
@[simp] theorem setPc_pixel (s : State) (n : Nat) (px py : Nat) :
    (s.setPc n).pixel px py = s.pixel px py := rfl

/-! ### advance -/

@[simp] theorem advance_regs (s : State) :
    (s.advance).regs = s.regs := rfl
@[simp] theorem advance_pc (s : State) :
    (s.advance).pc = BitVec.ofNat 16 (wrapAddr (s.pc.toNat + 2)) := rfl
@[simp] theorem advance_i (s : State) :
    (s.advance).i = s.i := rfl
@[simp] theorem advance_sp (s : State) :
    (s.advance).sp = s.sp := rfl
@[simp] theorem advance_stack (s : State) :
    (s.advance).stack = s.stack := rfl
@[simp] theorem advance_mem (s : State) :
    (s.advance).mem = s.mem := rfl
@[simp] theorem advance_fb (s : State) :
    (s.advance).fb = s.fb := rfl
@[simp] theorem advance_dt (s : State) :
    (s.advance).dt = s.dt := rfl
@[simp] theorem advance_st (s : State) :
    (s.advance).st = s.st := rfl
@[simp] theorem advance_keys (s : State) :
    (s.advance).keys = s.keys := rfl
@[simp] theorem advance_fault (s : State) :
    (s.advance).fault = s.fault := rfl
@[simp] theorem advance_draws (s : State) :
    (s.advance).draws = s.draws := rfl
@[simp] theorem advance_reg (s : State) (r : Nibble) :
    (s.advance).reg r = s.reg r := rfl
@[simp] theorem advance_key (s : State) (j : Nibble) :
    (s.advance).key j = s.key j := rfl
@[simp] theorem advance_readByte (s : State) (b : Nat) :
    (s.advance).readByte b = s.readByte b := rfl
@[simp] theorem advance_pixel (s : State) (px py : Nat) :
    (s.advance).pixel px py = s.pixel px py := rfl

/-! ### setI -/

@[simp] theorem setI_regs (s : State) (v : Word) :
    (s.setI v).regs = s.regs := rfl
@[simp] theorem setI_pc (s : State) (v : Word) :
    (s.setI v).pc = s.pc := rfl
@[simp] theorem setI_i (s : State) (v : Word) :
    (s.setI v).i = v := rfl
@[simp] theorem setI_sp (s : State) (v : Word) :
    (s.setI v).sp = s.sp := rfl
@[simp] theorem setI_stack (s : State) (v : Word) :
    (s.setI v).stack = s.stack := rfl
@[simp] theorem setI_mem (s : State) (v : Word) :
    (s.setI v).mem = s.mem := rfl
@[simp] theorem setI_fb (s : State) (v : Word) :
    (s.setI v).fb = s.fb := rfl
@[simp] theorem setI_dt (s : State) (v : Word) :
    (s.setI v).dt = s.dt := rfl
@[simp] theorem setI_st (s : State) (v : Word) :
    (s.setI v).st = s.st := rfl
@[simp] theorem setI_keys (s : State) (v : Word) :
    (s.setI v).keys = s.keys := rfl
@[simp] theorem setI_fault (s : State) (v : Word) :
    (s.setI v).fault = s.fault := rfl
@[simp] theorem setI_draws (s : State) (v : Word) :
    (s.setI v).draws = s.draws := rfl
@[simp] theorem setI_reg (s : State) (v : Word) (r : Nibble) :
    (s.setI v).reg r = s.reg r := rfl
@[simp] theorem setI_key (s : State) (v : Word) (j : Nibble) :
    (s.setI v).key j = s.key j := rfl
@[simp] theorem setI_readByte (s : State) (v : Word) (b : Nat) :
    (s.setI v).readByte b = s.readByte b := rfl
@[simp] theorem setI_pixel (s : State) (v : Word) (px py : Nat) :
    (s.setI v).pixel px py = s.pixel px py := rfl

/-! ### setDT -/

@[simp] theorem setDT_regs (s : State) (v : Byte) :
    (s.setDT v).regs = s.regs := rfl
@[simp] theorem setDT_pc (s : State) (v : Byte) :
    (s.setDT v).pc = s.pc := rfl
@[simp] theorem setDT_i (s : State) (v : Byte) :
    (s.setDT v).i = s.i := rfl
@[simp] theorem setDT_sp (s : State) (v : Byte) :
    (s.setDT v).sp = s.sp := rfl
@[simp] theorem setDT_stack (s : State) (v : Byte) :
    (s.setDT v).stack = s.stack := rfl
@[simp] theorem setDT_mem (s : State) (v : Byte) :
    (s.setDT v).mem = s.mem := rfl
@[simp] theorem setDT_fb (s : State) (v : Byte) :
    (s.setDT v).fb = s.fb := rfl
@[simp] theorem setDT_dt (s : State) (v : Byte) :
    (s.setDT v).dt = v := rfl
@[simp] theorem setDT_st (s : State) (v : Byte) :
    (s.setDT v).st = s.st := rfl
@[simp] theorem setDT_keys (s : State) (v : Byte) :
    (s.setDT v).keys = s.keys := rfl
@[simp] theorem setDT_fault (s : State) (v : Byte) :
    (s.setDT v).fault = s.fault := rfl
@[simp] theorem setDT_draws (s : State) (v : Byte) :
    (s.setDT v).draws = s.draws := rfl
@[simp] theorem setDT_reg (s : State) (v : Byte) (r : Nibble) :
    (s.setDT v).reg r = s.reg r := rfl
@[simp] theorem setDT_key (s : State) (v : Byte) (j : Nibble) :
    (s.setDT v).key j = s.key j := rfl
@[simp] theorem setDT_readByte (s : State) (v : Byte) (b : Nat) :
    (s.setDT v).readByte b = s.readByte b := rfl
@[simp] theorem setDT_pixel (s : State) (v : Byte) (px py : Nat) :
    (s.setDT v).pixel px py = s.pixel px py := rfl

/-! ### setST -/

@[simp] theorem setST_regs (s : State) (v : Byte) :
    (s.setST v).regs = s.regs := rfl
@[simp] theorem setST_pc (s : State) (v : Byte) :
    (s.setST v).pc = s.pc := rfl
@[simp] theorem setST_i (s : State) (v : Byte) :
    (s.setST v).i = s.i := rfl
@[simp] theorem setST_sp (s : State) (v : Byte) :
    (s.setST v).sp = s.sp := rfl
@[simp] theorem setST_stack (s : State) (v : Byte) :
    (s.setST v).stack = s.stack := rfl
@[simp] theorem setST_mem (s : State) (v : Byte) :
    (s.setST v).mem = s.mem := rfl
@[simp] theorem setST_fb (s : State) (v : Byte) :
    (s.setST v).fb = s.fb := rfl
@[simp] theorem setST_dt (s : State) (v : Byte) :
    (s.setST v).dt = s.dt := rfl
@[simp] theorem setST_st (s : State) (v : Byte) :
    (s.setST v).st = v := rfl
@[simp] theorem setST_keys (s : State) (v : Byte) :
    (s.setST v).keys = s.keys := rfl
@[simp] theorem setST_fault (s : State) (v : Byte) :
    (s.setST v).fault = s.fault := rfl
@[simp] theorem setST_draws (s : State) (v : Byte) :
    (s.setST v).draws = s.draws := rfl
@[simp] theorem setST_reg (s : State) (v : Byte) (r : Nibble) :
    (s.setST v).reg r = s.reg r := rfl
@[simp] theorem setST_key (s : State) (v : Byte) (j : Nibble) :
    (s.setST v).key j = s.key j := rfl
@[simp] theorem setST_readByte (s : State) (v : Byte) (b : Nat) :
    (s.setST v).readByte b = s.readByte b := rfl
@[simp] theorem setST_pixel (s : State) (v : Byte) (px py : Nat) :
    (s.setST v).pixel px py = s.pixel px py := rfl

/-! ### setKey -/

@[simp] theorem setKey_regs (s : State) (k : Nibble) (p : Bool) :
    (s.setKey k p).regs = s.regs := rfl
@[simp] theorem setKey_pc (s : State) (k : Nibble) (p : Bool) :
    (s.setKey k p).pc = s.pc := rfl
@[simp] theorem setKey_i (s : State) (k : Nibble) (p : Bool) :
    (s.setKey k p).i = s.i := rfl
@[simp] theorem setKey_sp (s : State) (k : Nibble) (p : Bool) :
    (s.setKey k p).sp = s.sp := rfl
@[simp] theorem setKey_stack (s : State) (k : Nibble) (p : Bool) :
    (s.setKey k p).stack = s.stack := rfl
@[simp] theorem setKey_mem (s : State) (k : Nibble) (p : Bool) :
    (s.setKey k p).mem = s.mem := rfl
@[simp] theorem setKey_fb (s : State) (k : Nibble) (p : Bool) :
    (s.setKey k p).fb = s.fb := rfl
@[simp] theorem setKey_dt (s : State) (k : Nibble) (p : Bool) :
    (s.setKey k p).dt = s.dt := rfl
@[simp] theorem setKey_st (s : State) (k : Nibble) (p : Bool) :
    (s.setKey k p).st = s.st := rfl
@[simp] theorem setKey_keys (s : State) (k : Nibble) (p : Bool) :
    (s.setKey k p).keys = s.keys.set k.toNat p k.isLt := rfl
@[simp] theorem setKey_fault (s : State) (k : Nibble) (p : Bool) :
    (s.setKey k p).fault = s.fault := rfl
@[simp] theorem setKey_draws (s : State) (k : Nibble) (p : Bool) :
    (s.setKey k p).draws = s.draws := rfl
@[simp] theorem setKey_reg (s : State) (k : Nibble) (p : Bool) (r : Nibble) :
    (s.setKey k p).reg r = s.reg r := rfl
@[simp] theorem setKey_readByte (s : State) (k : Nibble) (p : Bool) (b : Nat) :
    (s.setKey k p).readByte b = s.readByte b := rfl
@[simp] theorem setKey_pixel (s : State) (k : Nibble) (p : Bool) (px py : Nat) :
    (s.setKey k p).pixel px py = s.pixel px py := rfl

/-! ### setMem -/

@[simp] theorem setMem_regs (s : State) (m : Memory) :
    (s.setMem m).regs = s.regs := rfl
@[simp] theorem setMem_pc (s : State) (m : Memory) :
    (s.setMem m).pc = s.pc := rfl
@[simp] theorem setMem_i (s : State) (m : Memory) :
    (s.setMem m).i = s.i := rfl
@[simp] theorem setMem_sp (s : State) (m : Memory) :
    (s.setMem m).sp = s.sp := rfl
@[simp] theorem setMem_stack (s : State) (m : Memory) :
    (s.setMem m).stack = s.stack := rfl
@[simp] theorem setMem_mem (s : State) (m : Memory) :
    (s.setMem m).mem = m := rfl
@[simp] theorem setMem_fb (s : State) (m : Memory) :
    (s.setMem m).fb = s.fb := rfl
@[simp] theorem setMem_dt (s : State) (m : Memory) :
    (s.setMem m).dt = s.dt := rfl
@[simp] theorem setMem_st (s : State) (m : Memory) :
    (s.setMem m).st = s.st := rfl
@[simp] theorem setMem_keys (s : State) (m : Memory) :
    (s.setMem m).keys = s.keys := rfl
@[simp] theorem setMem_fault (s : State) (m : Memory) :
    (s.setMem m).fault = s.fault := rfl
@[simp] theorem setMem_draws (s : State) (m : Memory) :
    (s.setMem m).draws = s.draws := rfl
@[simp] theorem setMem_reg (s : State) (m : Memory) (r : Nibble) :
    (s.setMem m).reg r = s.reg r := rfl
@[simp] theorem setMem_key (s : State) (m : Memory) (j : Nibble) :
    (s.setMem m).key j = s.key j := rfl
@[simp] theorem setMem_pixel (s : State) (m : Memory) (px py : Nat) :
    (s.setMem m).pixel px py = s.pixel px py := rfl

/-! ### writeByte -/

@[simp] theorem writeByte_regs (s : State) (a : Nat) (v : Byte) :
    (s.writeByte a v).regs = s.regs := rfl
@[simp] theorem writeByte_pc (s : State) (a : Nat) (v : Byte) :
    (s.writeByte a v).pc = s.pc := rfl
@[simp] theorem writeByte_i (s : State) (a : Nat) (v : Byte) :
    (s.writeByte a v).i = s.i := rfl
@[simp] theorem writeByte_sp (s : State) (a : Nat) (v : Byte) :
    (s.writeByte a v).sp = s.sp := rfl
@[simp] theorem writeByte_stack (s : State) (a : Nat) (v : Byte) :
    (s.writeByte a v).stack = s.stack := rfl
@[simp] theorem writeByte_mem (s : State) (a : Nat) (v : Byte) :
    (s.writeByte a v).mem = s.mem.write (wrapAddr a) v := rfl
@[simp] theorem writeByte_fb (s : State) (a : Nat) (v : Byte) :
    (s.writeByte a v).fb = s.fb := rfl
@[simp] theorem writeByte_dt (s : State) (a : Nat) (v : Byte) :
    (s.writeByte a v).dt = s.dt := rfl
@[simp] theorem writeByte_st (s : State) (a : Nat) (v : Byte) :
    (s.writeByte a v).st = s.st := rfl
@[simp] theorem writeByte_keys (s : State) (a : Nat) (v : Byte) :
    (s.writeByte a v).keys = s.keys := rfl
@[simp] theorem writeByte_fault (s : State) (a : Nat) (v : Byte) :
    (s.writeByte a v).fault = s.fault := rfl
@[simp] theorem writeByte_draws (s : State) (a : Nat) (v : Byte) :
    (s.writeByte a v).draws = s.draws := rfl
@[simp] theorem writeByte_reg (s : State) (a : Nat) (v : Byte) (r : Nibble) :
    (s.writeByte a v).reg r = s.reg r := rfl
@[simp] theorem writeByte_key (s : State) (a : Nat) (v : Byte) (j : Nibble) :
    (s.writeByte a v).key j = s.key j := rfl
@[simp] theorem writeByte_pixel (s : State) (a : Nat) (v : Byte) (px py : Nat) :
    (s.writeByte a v).pixel px py = s.pixel px py := rfl

/-! ### setFb -/

@[simp] theorem setFb_regs (s : State) (f : Framebuffer) :
    (s.setFb f).regs = s.regs := rfl
@[simp] theorem setFb_pc (s : State) (f : Framebuffer) :
    (s.setFb f).pc = s.pc := rfl
@[simp] theorem setFb_i (s : State) (f : Framebuffer) :
    (s.setFb f).i = s.i := rfl
@[simp] theorem setFb_sp (s : State) (f : Framebuffer) :
    (s.setFb f).sp = s.sp := rfl
@[simp] theorem setFb_stack (s : State) (f : Framebuffer) :
    (s.setFb f).stack = s.stack := rfl
@[simp] theorem setFb_mem (s : State) (f : Framebuffer) :
    (s.setFb f).mem = s.mem := rfl
@[simp] theorem setFb_fb (s : State) (f : Framebuffer) :
    (s.setFb f).fb = f := rfl
@[simp] theorem setFb_dt (s : State) (f : Framebuffer) :
    (s.setFb f).dt = s.dt := rfl
@[simp] theorem setFb_st (s : State) (f : Framebuffer) :
    (s.setFb f).st = s.st := rfl
@[simp] theorem setFb_keys (s : State) (f : Framebuffer) :
    (s.setFb f).keys = s.keys := rfl
@[simp] theorem setFb_fault (s : State) (f : Framebuffer) :
    (s.setFb f).fault = s.fault := rfl
@[simp] theorem setFb_draws (s : State) (f : Framebuffer) :
    (s.setFb f).draws = s.draws := rfl
@[simp] theorem setFb_reg (s : State) (f : Framebuffer) (r : Nibble) :
    (s.setFb f).reg r = s.reg r := rfl
@[simp] theorem setFb_key (s : State) (f : Framebuffer) (j : Nibble) :
    (s.setFb f).key j = s.key j := rfl
@[simp] theorem setFb_readByte (s : State) (f : Framebuffer) (b : Nat) :
    (s.setFb f).readByte b = s.readByte b := rfl

/-! ### raise -/

@[simp] theorem raise_regs (s : State) (c : FaultLatch) :
    (s.raise c).regs = s.regs := rfl
@[simp] theorem raise_pc (s : State) (c : FaultLatch) :
    (s.raise c).pc = s.pc := rfl
@[simp] theorem raise_i (s : State) (c : FaultLatch) :
    (s.raise c).i = s.i := rfl
@[simp] theorem raise_sp (s : State) (c : FaultLatch) :
    (s.raise c).sp = s.sp := rfl
@[simp] theorem raise_stack (s : State) (c : FaultLatch) :
    (s.raise c).stack = s.stack := rfl
@[simp] theorem raise_mem (s : State) (c : FaultLatch) :
    (s.raise c).mem = s.mem := rfl
@[simp] theorem raise_fb (s : State) (c : FaultLatch) :
    (s.raise c).fb = s.fb := rfl
@[simp] theorem raise_dt (s : State) (c : FaultLatch) :
    (s.raise c).dt = s.dt := rfl
@[simp] theorem raise_st (s : State) (c : FaultLatch) :
    (s.raise c).st = s.st := rfl
@[simp] theorem raise_keys (s : State) (c : FaultLatch) :
    (s.raise c).keys = s.keys := rfl
@[simp] theorem raise_fault (s : State) (c : FaultLatch) :
    (s.raise c).fault = c := rfl
@[simp] theorem raise_draws (s : State) (c : FaultLatch) :
    (s.raise c).draws = s.draws := rfl
@[simp] theorem raise_reg (s : State) (c : FaultLatch) (r : Nibble) :
    (s.raise c).reg r = s.reg r := rfl
@[simp] theorem raise_key (s : State) (c : FaultLatch) (j : Nibble) :
    (s.raise c).key j = s.key j := rfl
@[simp] theorem raise_readByte (s : State) (c : FaultLatch) (b : Nat) :
    (s.raise c).readByte b = s.readByte b := rfl
@[simp] theorem raise_pixel (s : State) (c : FaultLatch) (px py : Nat) :
    (s.raise c).pixel px py = s.pixel px py := rfl

/-! ### drawn -/

@[simp] theorem drawn_regs (s : State) :
    (s.drawn).regs = s.regs := rfl
@[simp] theorem drawn_pc (s : State) :
    (s.drawn).pc = s.pc := rfl
@[simp] theorem drawn_i (s : State) :
    (s.drawn).i = s.i := rfl
@[simp] theorem drawn_sp (s : State) :
    (s.drawn).sp = s.sp := rfl
@[simp] theorem drawn_stack (s : State) :
    (s.drawn).stack = s.stack := rfl
@[simp] theorem drawn_mem (s : State) :
    (s.drawn).mem = s.mem := rfl
@[simp] theorem drawn_fb (s : State) :
    (s.drawn).fb = s.fb := rfl
@[simp] theorem drawn_dt (s : State) :
    (s.drawn).dt = s.dt := rfl
@[simp] theorem drawn_st (s : State) :
    (s.drawn).st = s.st := rfl
@[simp] theorem drawn_keys (s : State) :
    (s.drawn).keys = s.keys := rfl
@[simp] theorem drawn_fault (s : State) :
    (s.drawn).fault = s.fault := rfl
@[simp] theorem drawn_draws (s : State) :
    (s.drawn).draws = s.draws + 1 := rfl
@[simp] theorem drawn_reg (s : State) (r : Nibble) :
    (s.drawn).reg r = s.reg r := rfl
@[simp] theorem drawn_key (s : State) (j : Nibble) :
    (s.drawn).key j = s.key j := rfl
@[simp] theorem drawn_readByte (s : State) (b : Nat) :
    (s.drawn).readByte b = s.readByte b := rfl
@[simp] theorem drawn_pixel (s : State) (px py : Nat) :
    (s.drawn).pixel px py = s.pixel px py := rfl

/-! ### setVF -/

@[simp] theorem setVF_regs (s : State) (f : Byte) :
    (s.setVF f).regs = (s.regs.set 15 f (by decide)) := rfl
@[simp] theorem setVF_pc (s : State) (f : Byte) :
    (s.setVF f).pc = s.pc := rfl
@[simp] theorem setVF_i (s : State) (f : Byte) :
    (s.setVF f).i = s.i := rfl
@[simp] theorem setVF_sp (s : State) (f : Byte) :
    (s.setVF f).sp = s.sp := rfl
@[simp] theorem setVF_stack (s : State) (f : Byte) :
    (s.setVF f).stack = s.stack := rfl
@[simp] theorem setVF_mem (s : State) (f : Byte) :
    (s.setVF f).mem = s.mem := rfl
@[simp] theorem setVF_fb (s : State) (f : Byte) :
    (s.setVF f).fb = s.fb := rfl
@[simp] theorem setVF_dt (s : State) (f : Byte) :
    (s.setVF f).dt = s.dt := rfl
@[simp] theorem setVF_st (s : State) (f : Byte) :
    (s.setVF f).st = s.st := rfl
@[simp] theorem setVF_keys (s : State) (f : Byte) :
    (s.setVF f).keys = s.keys := rfl
@[simp] theorem setVF_fault (s : State) (f : Byte) :
    (s.setVF f).fault = s.fault := rfl
@[simp] theorem setVF_draws (s : State) (f : Byte) :
    (s.setVF f).draws = s.draws := rfl
@[simp] theorem setVF_key (s : State) (f : Byte) (j : Nibble) :
    (s.setVF f).key j = s.key j := rfl
@[simp] theorem setVF_readByte (s : State) (f : Byte) (b : Nat) :
    (s.setVF f).readByte b = s.readByte b := rfl
@[simp] theorem setVF_pixel (s : State) (f : Byte) (px py : Nat) :
    (s.setVF f).pixel px py = s.pixel px py := rfl

/-! ### setRegAndFlag -/

@[simp] theorem setRegAndFlag_regs (s : State) (x : Nibble) (v f : Byte) :
    (s.setRegAndFlag x v f).regs = ((s.regs.set x.toNat v x.isLt).set 15 f (by decide)) := rfl
@[simp] theorem setRegAndFlag_pc (s : State) (x : Nibble) (v f : Byte) :
    (s.setRegAndFlag x v f).pc = s.pc := rfl
@[simp] theorem setRegAndFlag_i (s : State) (x : Nibble) (v f : Byte) :
    (s.setRegAndFlag x v f).i = s.i := rfl
@[simp] theorem setRegAndFlag_sp (s : State) (x : Nibble) (v f : Byte) :
    (s.setRegAndFlag x v f).sp = s.sp := rfl
@[simp] theorem setRegAndFlag_stack (s : State) (x : Nibble) (v f : Byte) :
    (s.setRegAndFlag x v f).stack = s.stack := rfl
@[simp] theorem setRegAndFlag_mem (s : State) (x : Nibble) (v f : Byte) :
    (s.setRegAndFlag x v f).mem = s.mem := rfl
@[simp] theorem setRegAndFlag_fb (s : State) (x : Nibble) (v f : Byte) :
    (s.setRegAndFlag x v f).fb = s.fb := rfl
@[simp] theorem setRegAndFlag_dt (s : State) (x : Nibble) (v f : Byte) :
    (s.setRegAndFlag x v f).dt = s.dt := rfl
@[simp] theorem setRegAndFlag_st (s : State) (x : Nibble) (v f : Byte) :
    (s.setRegAndFlag x v f).st = s.st := rfl
@[simp] theorem setRegAndFlag_keys (s : State) (x : Nibble) (v f : Byte) :
    (s.setRegAndFlag x v f).keys = s.keys := rfl
@[simp] theorem setRegAndFlag_fault (s : State) (x : Nibble) (v f : Byte) :
    (s.setRegAndFlag x v f).fault = s.fault := rfl
@[simp] theorem setRegAndFlag_draws (s : State) (x : Nibble) (v f : Byte) :
    (s.setRegAndFlag x v f).draws = s.draws := rfl
@[simp] theorem setRegAndFlag_key (s : State) (x : Nibble) (v f : Byte) (j : Nibble) :
    (s.setRegAndFlag x v f).key j = s.key j := rfl
@[simp] theorem setRegAndFlag_readByte (s : State) (x : Nibble) (v f : Byte) (b : Nat) :
    (s.setRegAndFlag x v f).readByte b = s.readByte b := rfl
@[simp] theorem setRegAndFlag_pixel (s : State) (x : Nibble) (v f : Byte) (px py : Nat) :
    (s.setRegAndFlag x v f).pixel px py = s.pixel px py := rfl

/-! ### hostReset -/

@[simp] theorem hostReset_regs (s : State) : s.hostReset.regs = State.reset.regs := rfl
@[simp] theorem hostReset_pc (s : State) : s.hostReset.pc = State.reset.pc := rfl
@[simp] theorem hostReset_i (s : State) : s.hostReset.i = State.reset.i := rfl
@[simp] theorem hostReset_sp (s : State) : s.hostReset.sp = State.reset.sp := rfl
@[simp] theorem hostReset_stack (s : State) : s.hostReset.stack = State.reset.stack := rfl
@[simp] theorem hostReset_mem (s : State) : s.hostReset.mem = State.reset.mem := rfl
@[simp] theorem hostReset_fb (s : State) : s.hostReset.fb = State.reset.fb := rfl
@[simp] theorem hostReset_dt (s : State) : s.hostReset.dt = State.reset.dt := rfl
@[simp] theorem hostReset_st (s : State) : s.hostReset.st = State.reset.st := rfl
@[simp] theorem hostReset_keys (s : State) : s.hostReset.keys = State.reset.keys := rfl
@[simp] theorem hostReset_fault (s : State) : s.hostReset.fault = State.reset.fault := rfl
@[simp] theorem hostReset_draws (s : State) : s.hostReset.draws = s.draws := rfl

/-! ### skipIf -/

@[simp] theorem skipIf_regs (s : State) (c : Bool) : (s.skipIf c).regs = s.regs := by cases c <;> rfl
@[simp] theorem skipIf_i (s : State) (c : Bool) : (s.skipIf c).i = s.i := by cases c <;> rfl
@[simp] theorem skipIf_sp (s : State) (c : Bool) : (s.skipIf c).sp = s.sp := by cases c <;> rfl
@[simp] theorem skipIf_stack (s : State) (c : Bool) : (s.skipIf c).stack = s.stack := by cases c <;> rfl
@[simp] theorem skipIf_mem (s : State) (c : Bool) : (s.skipIf c).mem = s.mem := by cases c <;> rfl
@[simp] theorem skipIf_fb (s : State) (c : Bool) : (s.skipIf c).fb = s.fb := by cases c <;> rfl
@[simp] theorem skipIf_dt (s : State) (c : Bool) : (s.skipIf c).dt = s.dt := by cases c <;> rfl
@[simp] theorem skipIf_st (s : State) (c : Bool) : (s.skipIf c).st = s.st := by cases c <;> rfl
@[simp] theorem skipIf_keys (s : State) (c : Bool) : (s.skipIf c).keys = s.keys := by cases c <;> rfl
@[simp] theorem skipIf_fault (s : State) (c : Bool) : (s.skipIf c).fault = s.fault := by cases c <;> rfl
@[simp] theorem skipIf_draws (s : State) (c : Bool) : (s.skipIf c).draws = s.draws := by cases c <;> rfl
@[simp] theorem skipIf_reg (s : State) (c : Bool) (r : Nibble) : (s.skipIf c).reg r = s.reg r := by cases c <;> rfl
@[simp] theorem skipIf_key (s : State) (c : Bool) (j : Nibble) : (s.skipIf c).key j = s.key j := by cases c <;> rfl
@[simp] theorem skipIf_readByte (s : State) (c : Bool) (b : Nat) : (s.skipIf c).readByte b = s.readByte b := by cases c <;> rfl
@[simp] theorem skipIf_pixel (s : State) (c : Bool) (px py : Nat) : (s.skipIf c).pixel px py = s.pixel px py := by cases c <;> rfl

end Sys2Proof.Machine
end

