-- ==== Sys2Proof/Laws/Memory.lean ====
section
/-! SUPPORT. Memory: a read after a write, and that every memory operation keeps the canonical form. -/

namespace Sys2Proof.Machine

/-! ### Reads -/

theorem read_erase (m : Memory) (a b : Nat) :
    (Memory.erase m a).read b = if b = a then Memory.unlisted else Memory.read m b := by
  induction m with
  | nil => simp [Memory.erase, Memory.read]
  | cons c m ih =>
    obtain ⟨k, v⟩ := c
    simp only [Memory.erase, Memory.read]
    split
    · next h =>
      rw [ih]
      split
      · rfl
      · next hb => rw [if_neg (by omega)]
    · next h =>
      simp only [Memory.read]
      split
      · next hb => rw [if_neg (by omega)]
      · exact ih

theorem length_erase (m : Memory) (a : Nat) : (Memory.erase m a).length ≤ m.length := by
  induction m with
  | nil => exact Nat.le_refl 0
  | cons c m ih =>
    obtain ⟨k, v⟩ := c
    simp only [Memory.erase]
    split <;> simp only [List.length_cons] <;> omega

theorem read_put (m : Memory) (a b : Nat) (v : Byte) (he : Memory.erase m a = m) :
    (Memory.put m a v).read b = if b = a then v else Memory.read m b := by
  induction m with
  | nil =>
    simp only [Memory.put, Memory.read]
    split
    · next h => rw [if_pos h.symm]
    · next h => rw [if_neg fun h' => h h'.symm]
  | cons c m ih =>
    obtain ⟨k, w⟩ := c
    have hk : k ≠ a := by
      intro h
      have hl := congrArg List.length he
      have := length_erase m a
      simp only [Memory.erase, if_pos h, List.length_cons] at hl
      omega
    simp only [Memory.erase, if_neg hk, List.cons.injEq, true_and] at he
    simp only [Memory.put]
    split
    · rw [Memory.read]
      split
      · next h => rw [if_pos h.symm]
      · next h => rw [if_neg fun h' => h h'.symm]
    · simp only [Memory.read]
      split
      · next h => rw [if_neg (by omega)]
      · exact ih he

theorem erase_erase (m : Memory) (a : Nat) : Memory.erase (Memory.erase m a) a = Memory.erase m a := by
  induction m with
  | nil => rfl
  | cons c m ih =>
    obtain ⟨k, v⟩ := c
    by_cases h : k = a <;> simp [Memory.erase, h, ih]

/-- A read after a write: the value written at that key, every other key as before. -/
theorem read_write (m : Memory) (a b : Nat) (v : Byte) :
    (m.write a v).read b = if b = a then v else m.read b := by
  unfold Memory.write
  split
  · next h => rw [read_erase, h]
  · rw [read_put _ _ _ _ (erase_erase m a), read_erase]
    split <;> rfl

/-- `MemRead` after `MemWrite`, addresses mod 4096 (R33). -/
theorem readByte_writeByte (s : State) (a b : Nat) (v : Byte) :
    (s.writeByte a v).readByte b = if b % 4096 = a % 4096 then v else s.readByte b := by
  simp [State.readByte, read_write, wrapAddr]

/-- Addresses that are equal mod 4096 are one address (R33). -/
theorem readByte_mod (s : State) (a : Nat) : s.readByte (a % 4096) = s.readByte a := by
  simp [State.readByte, wrapAddr]

/-! ### The canonical form -/

theorem wfFrom_mono {lo lo' : Nat} {m : Memory} (h : Memory.wfFrom lo m = true) (hle : lo' ≤ lo) :
    Memory.wfFrom lo' m = true := by
  cases m with
  | nil => rfl
  | cons c m =>
    obtain ⟨k, v⟩ := c
    simp only [Memory.wfFrom, Bool.and_eq_true, decide_eq_true_eq] at h ⊢
    exact ⟨⟨⟨by omega, h.1.1.2⟩, h.1.2⟩, h.2⟩

theorem wfFrom_erase {lo : Nat} {m : Memory} (a : Nat) (h : Memory.wfFrom lo m = true) :
    Memory.wfFrom lo (Memory.erase m a) = true := by
  induction m generalizing lo with
  | nil => rfl
  | cons c m ih =>
    obtain ⟨k, v⟩ := c
    simp only [Memory.wfFrom, Bool.and_eq_true, decide_eq_true_eq] at h
    simp only [Memory.erase]
    split
    · exact wfFrom_mono (ih h.2) (by omega)
    · simp only [Memory.wfFrom, Bool.and_eq_true, decide_eq_true_eq]
      exact ⟨h.1, ih h.2⟩

theorem erase_of_wfFrom {lo : Nat} {m : Memory} {a : Nat} (h : Memory.wfFrom lo m = true) (ha : a < lo) :
    Memory.erase m a = m := by
  induction m generalizing lo with
  | nil => rfl
  | cons c m ih =>
    obtain ⟨k, v⟩ := c
    simp only [Memory.wfFrom, Bool.and_eq_true, decide_eq_true_eq] at h
    simp only [Memory.erase, if_neg (show k ≠ a by omega), ih h.2 (by omega)]

theorem wfFrom_put_erase {lo : Nat} {m : Memory} {a : Nat} {v : Byte} (h : Memory.wfFrom lo m = true)
    (hlo : lo ≤ a) (ha : a < 4096) (hv : v ≠ Memory.unlisted) :
    Memory.wfFrom lo (Memory.put (Memory.erase m a) a v) = true := by
  induction m generalizing lo with
  | nil => simp [Memory.erase, Memory.put, Memory.wfFrom, hlo, ha, hv]
  | cons c m ih =>
    obtain ⟨k, w⟩ := c
    simp only [Memory.wfFrom, Bool.and_eq_true, decide_eq_true_eq] at h
    simp only [Memory.erase]
    split
    · exact ih (wfFrom_mono h.2 (by omega)) hlo
    · simp only [Memory.put]
      split
      · rw [erase_of_wfFrom h.2 (by omega)]
        simp only [Memory.wfFrom, Bool.and_eq_true, decide_eq_true_eq]
        exact ⟨⟨⟨hlo, ha⟩, hv⟩, ⟨⟨⟨by omega, h.1.1.2⟩, h.1.2⟩, h.2⟩⟩
      · simp only [Memory.wfFrom, Bool.and_eq_true, decide_eq_true_eq]
        exact ⟨h.1, ih h.2 (by omega)⟩

/-- A write below 4096 keeps the canonical form. -/
theorem wf_write {m : Memory} {a : Nat} (v : Byte) (h : m.wf = true) (ha : a < 4096) : (m.write a v).wf = true := by
  unfold Memory.write Memory.wf
  split
  · exact wfFrom_erase a h
  · next hv => exact wfFrom_put_erase h (Nat.zero_le a) ha hv

/-- `MemWrite` keeps the canonical form. -/
theorem wf_writeByte {s : State} (a : Nat) (v : Byte) (h : s.mem.wf = true) : (s.writeByte a v).mem.wf = true :=
  wf_write v h (Nat.mod_lt _ (by decide))

/-- A sequence of writes keeps the canonical form. -/
theorem wf_writeBytes {s : State} (a : Nat) (bs : List Byte) (h : s.mem.wf = true) :
    (s.writeBytes a bs).mem.wf = true := by
  induction bs generalizing s a with
  | nil => exact h
  | cons b bs ih => exact ih (a + 1) (wf_writeByte a b h)

/-- Memory after reset has the canonical form. -/
theorem wf_reset : State.reset.mem.wf = true := rfl

/-! ### Sequences of writes -/

/-- A sequence of at most 4096 writes: each byte at its address, every other address as before. -/
theorem readByte_writeBytes (s : State) (a : Nat) (bs : List Byte) (hlen : bs.length ≤ 4096) (b : Nat) :
    ((∀ k, k < bs.length → b % 4096 ≠ (a + k) % 4096) → (s.writeBytes a bs).readByte b = s.readByte b) ∧
    (∀ k (h : k < bs.length), b % 4096 = (a + k) % 4096 → (s.writeBytes a bs).readByte b = bs[k]) := by
  induction bs generalizing s a with
  | nil => simp [State.writeBytes]
  | cons c bs ih =>
    simp only [List.length_cons] at hlen
    have ih := ih (s.writeByte a c) (a + 1) (by omega)
    constructor
    · intro h
      rw [State.writeBytes, ih.1 fun k hk => by have := h (k + 1) (by simp; omega); rwa [Nat.add_right_comm a 1 k]]
      have := h 0 (by simp)
      rw [readByte_writeByte, if_neg (by simpa using this)]
    · intro k hk heq
      rw [State.writeBytes]
      cases k with
      | zero =>
        rw [ih.1 fun k hk' => by omega, readByte_writeByte, if_pos (by simpa using heq)]
        rfl
      | succ k =>
        simp only [List.length_cons] at hk
        rw [ih.2 k (by omega) (by rw [heq]; congr 1; omega)]
        rfl

/-- A sequence of writes changes memory only. -/
theorem writeBytes_setMem (s : State) (a : Nat) (bs : List Byte) :
    s.writeBytes a bs = s.setMem (s.writeBytes a bs).mem := by
  induction bs generalizing s a with
  | nil => rfl
  | cons b bs ih => rw [State.writeBytes, ih]; rfl

@[simp] theorem writeBytes_regs (s : State) (a : Nat) (bs : List Byte) : (s.writeBytes a bs).regs = s.regs := by
  rw [writeBytes_setMem]; rfl
@[simp] theorem writeBytes_pc (s : State) (a : Nat) (bs : List Byte) : (s.writeBytes a bs).pc = s.pc := by
  rw [writeBytes_setMem]; rfl
@[simp] theorem writeBytes_i (s : State) (a : Nat) (bs : List Byte) : (s.writeBytes a bs).i = s.i := by
  rw [writeBytes_setMem]; rfl
@[simp] theorem writeBytes_sp (s : State) (a : Nat) (bs : List Byte) : (s.writeBytes a bs).sp = s.sp := by
  rw [writeBytes_setMem]; rfl
@[simp] theorem writeBytes_stack (s : State) (a : Nat) (bs : List Byte) : (s.writeBytes a bs).stack = s.stack := by
  rw [writeBytes_setMem]; rfl
@[simp] theorem writeBytes_fb (s : State) (a : Nat) (bs : List Byte) : (s.writeBytes a bs).fb = s.fb := by
  rw [writeBytes_setMem]; rfl
@[simp] theorem writeBytes_dt (s : State) (a : Nat) (bs : List Byte) : (s.writeBytes a bs).dt = s.dt := by
  rw [writeBytes_setMem]; rfl
@[simp] theorem writeBytes_st (s : State) (a : Nat) (bs : List Byte) : (s.writeBytes a bs).st = s.st := by
  rw [writeBytes_setMem]; rfl
@[simp] theorem writeBytes_keys (s : State) (a : Nat) (bs : List Byte) : (s.writeBytes a bs).keys = s.keys := by
  rw [writeBytes_setMem]; rfl
@[simp] theorem writeBytes_fault (s : State) (a : Nat) (bs : List Byte) : (s.writeBytes a bs).fault = s.fault := by
  rw [writeBytes_setMem]; rfl
@[simp] theorem writeBytes_draws (s : State) (a : Nat) (bs : List Byte) : (s.writeBytes a bs).draws = s.draws := by
  rw [writeBytes_setMem]; rfl
@[simp] theorem writeBytes_reg (s : State) (a : Nat) (bs : List Byte) (r : Nibble) :
    (s.writeBytes a bs).reg r = s.reg r := by
  rw [writeBytes_setMem]; rfl
@[simp] theorem writeBytes_key (s : State) (a : Nat) (bs : List Byte) (j : Nibble) :
    (s.writeBytes a bs).key j = s.key j := by
  rw [writeBytes_setMem]; rfl
@[simp] theorem writeBytes_pixel (s : State) (a : Nat) (bs : List Byte) (px py : Nat) :
    (s.writeBytes a bs).pixel px py = s.pixel px py := by
  rw [writeBytes_setMem]; rfl

end Sys2Proof.Machine
end

