-- ==== Sys2Proof/Laws/Ops.lean ====
section
/-! SUPPORT. One lemma per shared operation: what it answers, in terms of reads of the state before it. -/

namespace Sys2Proof.Machine

/-! ### The pc (R13, R71, R80) -/

/-- A reduced address fits 16 bits. -/
@[simp] theorem wrapAddr_mod (n : Nat) : wrapAddr n % 65536 = n % 4096 := by
  simp only [wrapAddr]; omega

@[simp] theorem toNat_setPc (s : State) (n : Nat) : (s.setPc n).pc.toNat = n % 4096 := by
  simp

@[simp] theorem toNat_advance (s : State) : s.advance.pc.toNat = (s.pc.toNat + 2) % 4096 := toNat_setPc s _

theorem toNat_skipIf_advance (s : State) (c : Bool) :
    (s.advance.skipIf c).pc.toNat = if c then (s.pc.toNat + 4) % 4096 else (s.pc.toNat + 2) % 4096 := by
  cases c
  · exact toNat_advance s
  · have : s.advance.advance.pc.toNat = _ := toNat_advance s.advance
    simp only [State.skipIf, if_pos, this, toNat_advance]
    omega

/-! ### Registers and keys (R8, R10, R22) -/

theorem reg_setReg (s : State) (x r : Nibble) (v : Byte) : (s.setReg x v).reg r = if r = x then v else s.reg r := by
  simp only [State.reg, setReg_regs, Vector.getElem_set]
  by_cases h : r = x
  · simp [h]
  · simp [h, show x.toNat ≠ r.toNat from fun e => h (BitVec.eq_of_toNat_eq e.symm)]

theorem reg_setRegAndFlag (s : State) (x r : Nibble) (v f : Byte) :
    (s.setRegAndFlag x v f).reg r = if r = 0xF#4 then f else if r = x then v else s.reg r := by
  simp only [State.setRegAndFlag, State.setVF, reg_setReg]

theorem key_setKey (s : State) (k j : Nibble) (p : Bool) : (s.setKey k p).key j = if j = k then p else s.key j := by
  simp only [State.key, setKey_keys, Vector.getElem_set]
  by_cases h : j = k
  · simp [h]
  · simp [h, show k.toNat ≠ j.toNat from fun e => h (BitVec.eq_of_toNat_eq e.symm)]

/-- The key found is pressed, and no lower one is (R118). -/
theorem lowestKey_some {s : State} {k : Nibble} (h : s.lowestKey = some k) :
    s.key k = true ∧ ∀ j : Nibble, j.toNat < k.toNat → s.key j = false := by
  simp only [State.lowestKey, List.find?_map, Option.map_eq_some_iff, List.find?_range_eq_some] at h
  obtain ⟨n, ⟨hn, hmem, hmin⟩, rfl⟩ := h
  have hlt : n < 16 := List.mem_range.mp hmem
  refine ⟨hn, fun j hj => ?_⟩
  have := hmin j.toNat (by simpa [Nat.mod_eq_of_lt hlt] using hj)
  simpa using this

/-- No key is found only if none is pressed (R118). -/
theorem lowestKey_none {s : State} (h : s.lowestKey = none) (k : Nibble) : s.key k = false := by
  simp only [State.lowestKey, List.find?_eq_none, List.mem_map, List.mem_range] at h
  have := h k ⟨k.toNat, k.isLt, by simp⟩
  simpa using this

/-! ### Memory and fetch (R34) -/

/-- What is placed at the pc is what is fetched there. -/
theorem fetch_placeWord (s : State) (w : Word) : (s.placeWord w).fetch = w := by
  have hpc : (s.placeWord w).pc = s.pc := rfl
  have hread : ∀ b, (s.placeWord w).readByte b =
      ((s.writeByte s.pc.toNat (wordHi w)).writeByte (s.pc.toNat + 1) (wordLo w)).readByte b := fun _ => rfl
  simp only [State.fetch, hpc, hread, readByte_writeByte]
  rw [if_neg (by omega)]
  simp

/-! ### Call stack (R16, R17, R82, R84) -/

/-- A push answers unless the stack is full. -/
theorem push_cases (s : State) (v : Word) :
    (s.sp.val = 16 ∧ s.push v = none) ∨
    ∃ h : s.sp.val < 16, s.push v =
      some { s with stack := s.stack.set s.sp.val v h, sp := ⟨s.sp.val + 1, by omega⟩ } := by
  by_cases h : s.sp.val < 16
  · exact .inr ⟨h, by simp [State.push, h]⟩
  · exact .inl ⟨by have := s.sp.isLt; omega, by simp [State.push, h]⟩

/-- A pop answers unless the stack is empty. -/
theorem pop_cases (s : State) :
    (s.sp.val = 0 ∧ s.pop = none) ∨
    ∃ k : Fin 16, s.sp.val = k.val + 1 ∧
      s.pop = some (s.stack[k], { s with sp := ⟨k.val, by omega⟩ }) := by
  have hsp := s.sp.isLt
  by_cases h : s.sp.val = 0
  · exact .inl ⟨h, by simp [State.pop, h]⟩
  · exact .inr ⟨⟨s.sp.val - 1, by omega⟩, by simp; omega, by simp [State.pop, h]⟩

/-! ### Framebuffer (R19, R115) -/

theorem get_of_outside (f : Framebuffer) (x y : Nat) (h : ¬ (x < 64 ∧ y < 32)) : f.get x y = false := dif_neg h

theorem get_clear (x y : Nat) : Framebuffer.clear.get x y = false := by
  unfold Framebuffer.get
  split
  · simp [Framebuffer.clear]
  · rfl

/-- A flip inverts its cell, if the grid has it, and no other. -/
theorem get_flip (f : Framebuffer) (x y px py : Nat) :
    (f.flip x y).get px py =
      if px = x ∧ py = y ∧ x < 64 ∧ y < 32 then !f.get px py else f.get px py := by
  by_cases hin : x < 64 ∧ y < 32
  · by_cases hp : px < 64 ∧ py < 32
    · simp only [Framebuffer.get, Framebuffer.flip, dif_pos hin, dif_pos hp, Vector.getElem_set]
      by_cases hy : py = y
      · subst hy
        by_cases hx : px = x
        · subst hx; simp [hin]
        · simp [hx, show x ≠ px from fun e => hx e.symm]
      · simp [hy, show y ≠ py from fun e => hy e.symm]
    · rw [get_of_outside _ _ _ hp, get_of_outside _ _ _ hp, if_neg (by omega)]
  · rw [if_neg (by omega), Framebuffer.flip, dif_neg hin]

end Sys2Proof.Machine
end

