-- ==== Sys2Proof/Laws/Display.lean ====
section
/-! SUPPORT. One pixel and one row of a sprite, in closed form. -/

namespace Sys2Proof.Machine

/-- A drawn pixel inverts its cell, clipped outside the grid, and hits where the cell was on (R113, R115). -/
theorem drawPixel_spec (d : Framebuffer × Bool) (px py : Nat) :
    (∀ x y, (drawPixel d px py).1.get x y =
      if x = px ∧ y = py ∧ px < 64 ∧ py < 32 then !d.1.get x y else d.1.get x y) ∧
    (drawPixel d px py).2 = (d.2 || d.1.get px py) := by
  unfold drawPixel
  split
  · exact ⟨fun x y => get_flip _ _ _ _ _, rfl⟩
  · next h => exact ⟨fun x y => by rw [if_neg (by omega)], by rw [get_of_outside _ _ _ h, Bool.or_false]⟩

/-- The first `n` columns of row byte `b`, drawn from (vx, py) on, put a 1 bit on the cell (x, y). -/
def rowOn (b : Byte) (vx py n x y : Nat) : Prop :=
  y = py ∧ x < 64 ∧ y < 32 ∧ vx ≤ x ∧ x < vx + n ∧ spriteBit b (x - vx) = true

theorem rowOn_succ (b : Byte) (vx py n x y : Nat) :
    rowOn b vx py (n + 1) x y ↔
      rowOn b vx py n x y ∨ (x = vx + n ∧ y = py ∧ vx + n < 64 ∧ py < 32 ∧ spriteBit b n = true) := by
  unfold rowOn
  constructor
  · rintro ⟨hy, hx, hy', hv, hn, hb⟩
    by_cases h : x = vx + n
    · subst h; exact .inr ⟨rfl, hy, hx, by omega, by simpa using hb⟩
    · exact .inl ⟨hy, hx, hy', hv, by omega, hb⟩
  · rintro (⟨hy, hx, hy', hv, hn, hb⟩ | ⟨rfl, rfl, hx, hy, hb⟩)
    · exact ⟨hy, hx, hy', hv, by omega, hb⟩
    · exact ⟨rfl, hx, hy, by omega, by omega, by simpa using hb⟩

/-- The first `n` columns: the cells the row puts a 1 bit on are inverted, and the draw hits where one of them was on. -/
theorem drawColumns_spec (b : Byte) (vx py n : Nat) (d : Framebuffer × Bool) :
    (∀ x y,
      (rowOn b vx py n x y →
        ((List.range n).foldl (fun e col => if spriteBit b col then drawPixel e (vx + col) py else e) d).1.get x y
          = !d.1.get x y) ∧
      (¬ rowOn b vx py n x y →
        ((List.range n).foldl (fun e col => if spriteBit b col then drawPixel e (vx + col) py else e) d).1.get x y
          = d.1.get x y)) ∧
    (((List.range n).foldl (fun e col => if spriteBit b col then drawPixel e (vx + col) py else e) d).2 = true ↔
      d.2 = true ∨ ∃ x y, rowOn b vx py n x y ∧ d.1.get x y = true) := by
  induction n with
  | zero =>
    have hno : ∀ x y, ¬ rowOn b vx py 0 x y := fun x y h => by unfold rowOn at h; omega
    refine ⟨fun x y => ⟨fun h => absurd h (hno x y), fun _ => rfl⟩, .inl, ?_⟩
    rintro (h | ⟨x, y, h, -⟩)
    · exact h
    · exact absurd h (hno x y)
  | succ n ih =>
    simp only [List.range_succ, List.foldl_append, List.foldl_cons, List.foldl_nil]
    generalize (List.range n).foldl (fun e col => if spriteBit b col then drawPixel e (vx + col) py else e) d = e
      at ih ⊢
    obtain ⟨hcell, hhit⟩ := ih
    have hnew : ∀ y, ¬ rowOn b vx py n (vx + n) y := fun y h => by unfold rowOn at h; omega
    by_cases hb : spriteBit b n = true
    · obtain ⟨hp, hh⟩ := drawPixel_spec e (vx + n) py
      rw [if_pos hb]
      refine ⟨fun x y => ⟨fun h => ?_, fun h => ?_⟩, ?_⟩
      · rcases (rowOn_succ ..).1 h with h' | ⟨rfl, rfl, hx, hy, -⟩
        · have hne : ¬ (x = vx + n ∧ y = py ∧ vx + n < 64 ∧ py < 32) := fun c => hnew y (c.1 ▸ h')
          rw [hp, if_neg hne, (hcell x y).1 h']
        · rw [hp, if_pos ⟨rfl, rfl, hx, hy⟩, (hcell _ _).2 (hnew _)]
      · rw [rowOn_succ, not_or] at h
        rw [hp, if_neg fun c => h.2 ⟨c.1, c.2.1, c.2.2.1, c.2.2.2, hb⟩, (hcell x y).2 h.1]
      · rw [hh, Bool.or_eq_true, hhit, (hcell _ _).2 (hnew _)]
        constructor
        · rintro ((h | ⟨x, y, h, g⟩) | h)
          · exact .inl h
          · exact .inr ⟨x, y, (rowOn_succ ..).2 (.inl h), g⟩
          · have hin : vx + n < 64 ∧ py < 32 := by
              by_contra hc
              rw [get_of_outside _ _ _ hc] at h
              cases h
            exact .inr ⟨vx + n, py, (rowOn_succ ..).2 (.inr ⟨rfl, rfl, hin.1, hin.2, hb⟩), h⟩
        · rintro (h | ⟨x, y, h, g⟩)
          · exact .inl (.inl h)
          · rcases (rowOn_succ ..).1 h with h' | ⟨rfl, rfl, -⟩
            · exact .inl (.inr ⟨x, y, h', g⟩)
            · exact .inr g
    · have hrow : ∀ x y, rowOn b vx py (n + 1) x y ↔ rowOn b vx py n x y := fun x y =>
        (rowOn_succ ..).trans ⟨fun h => h.resolve_right fun c => hb c.2.2.2.2, .inl⟩
      rw [if_neg hb]
      simp only [hrow]
      exact ⟨hcell, hhit⟩

/-- One sprite row (R113, R114). -/
theorem drawRow_spec (b : Byte) (vx py : Nat) (d : Framebuffer × Bool) :
    (∀ x y, (rowOn b vx py 8 x y → (drawRow b vx py d).1.get x y = !d.1.get x y) ∧
      (¬ rowOn b vx py 8 x y → (drawRow b vx py d).1.get x y = d.1.get x y)) ∧
    ((drawRow b vx py d).2 = true ↔ d.2 = true ∨ ∃ x y, rowOn b vx py 8 x y ∧ d.1.get x y = true) :=
  drawColumns_spec b vx py 8 d

end Sys2Proof.Machine
end

