-- ==== Sys2Proof/Laws/PerInstr.lean ====
section
/-! SUPPORT. Per instruction: its word matches its own row of the opcode table (R54, R55). -/

namespace Sys2Proof.Laws.TableRow

/-- The word of `i` has the fixed bits of the row of R55 that `i` belongs to. -/
def Statement (i : Instr) : Prop := rowMatches i.row (encode i) = true

theorem fmtAddr_and (f : Nibble) (nnn : Addr) : fmtAddr f nnn &&& 0xF000#16 = fmtAddr f 0 := by
  refine BitVec.eq_of_getLsbD_eq fun i hi => ?_
  simp only [BitVec.getLsbD_and, getLsbD_fmtAddr]
  interval_cases i <;> simp

theorem fmtRegImm_and (f x : Nibble) (nn : Byte) : fmtRegImm f x nn &&& 0xF000#16 = fmtRegImm f 0 0 := by
  refine BitVec.eq_of_getLsbD_eq fun i hi => ?_
  simp only [BitVec.getLsbD_and, getLsbD_fmtRegImm]
  interval_cases i <;> simp

theorem fmtRegImm_and_low (f x : Nibble) (nn : Byte) : fmtRegImm f x nn &&& 0xF0FF#16 = fmtRegImm f 0 nn := by
  refine BitVec.eq_of_getLsbD_eq fun i hi => ?_
  simp only [BitVec.getLsbD_and, getLsbD_fmtRegImm]
  interval_cases i <;> simp

theorem fmtRegReg_and (f x y n : Nibble) : fmtRegReg f x y n &&& 0xF000#16 = fmtRegReg f 0 0 0 := by
  refine BitVec.eq_of_getLsbD_eq fun i hi => ?_
  simp only [BitVec.getLsbD_and, getLsbD_fmtRegReg]
  interval_cases i <;> simp

theorem fmtRegReg_and_low (f x y n : Nibble) : fmtRegReg f x y n &&& 0xF00F#16 = fmtRegReg f 0 0 n := by
  refine BitVec.eq_of_getLsbD_eq fun i hi => ?_
  simp only [BitVec.getLsbD_and, getLsbD_fmtRegReg]
  interval_cases i <;> simp

/-- A word whose masked bits are the row's match. -/
theorem statement_of_and {i : Instr} (h : encode i &&& i.row.1 = i.row.2) : Statement i :=
  beq_iff_eq.mpr h

theorem sys (nnn : Addr) : Statement (.sys nnn) := statement_of_and (fmtAddr_and _ _)
theorem cls : Statement (.cls) := statement_of_and (rfl)
theorem ret : Statement (.ret) := statement_of_and (rfl)
theorem jp (nnn : Addr) : Statement (.jp nnn) := statement_of_and (fmtAddr_and _ _)
theorem call (nnn : Addr) : Statement (.call nnn) := statement_of_and (fmtAddr_and _ _)
theorem seByte (x : Nibble) (nn : Byte) : Statement (.seByte x nn) := statement_of_and (fmtRegImm_and _ _ _)
theorem sneByte (x : Nibble) (nn : Byte) : Statement (.sneByte x nn) := statement_of_and (fmtRegImm_and _ _ _)
theorem seReg (x : Nibble) (y : Nibble) : Statement (.seReg x y) := statement_of_and (fmtRegReg_and_low _ _ _ _)
theorem ldByte (x : Nibble) (nn : Byte) : Statement (.ldByte x nn) := statement_of_and (fmtRegImm_and _ _ _)
theorem addByte (x : Nibble) (nn : Byte) : Statement (.addByte x nn) := statement_of_and (fmtRegImm_and _ _ _)
theorem ldReg (x : Nibble) (y : Nibble) : Statement (.ldReg x y) := statement_of_and (fmtRegReg_and_low _ _ _ _)
theorem orReg (x : Nibble) (y : Nibble) : Statement (.orReg x y) := statement_of_and (fmtRegReg_and_low _ _ _ _)
theorem andReg (x : Nibble) (y : Nibble) : Statement (.andReg x y) := statement_of_and (fmtRegReg_and_low _ _ _ _)
theorem xorReg (x : Nibble) (y : Nibble) : Statement (.xorReg x y) := statement_of_and (fmtRegReg_and_low _ _ _ _)
theorem addReg (x : Nibble) (y : Nibble) : Statement (.addReg x y) := statement_of_and (fmtRegReg_and_low _ _ _ _)
theorem subReg (x : Nibble) (y : Nibble) : Statement (.subReg x y) := statement_of_and (fmtRegReg_and_low _ _ _ _)
theorem shr (x : Nibble) (y : Nibble) : Statement (.shr x y) := statement_of_and (fmtRegReg_and_low _ _ _ _)
theorem subnReg (x : Nibble) (y : Nibble) : Statement (.subnReg x y) := statement_of_and (fmtRegReg_and_low _ _ _ _)
theorem shl (x : Nibble) (y : Nibble) : Statement (.shl x y) := statement_of_and (fmtRegReg_and_low _ _ _ _)
theorem sneReg (x : Nibble) (y : Nibble) : Statement (.sneReg x y) := statement_of_and (fmtRegReg_and_low _ _ _ _)
theorem ldI (nnn : Addr) : Statement (.ldI nnn) := statement_of_and (fmtAddr_and _ _)
theorem jpV0 (nnn : Addr) : Statement (.jpV0 nnn) := statement_of_and (fmtAddr_and _ _)
theorem rnd (x : Nibble) (nn : Byte) : Statement (.rnd x nn) := statement_of_and (fmtRegImm_and _ _ _)
theorem drw (x : Nibble) (y : Nibble) (n : Nibble) : Statement (.drw x y n) := statement_of_and (fmtRegReg_and _ _ _ _)
theorem skp (x : Nibble) : Statement (.skp x) := statement_of_and (fmtRegImm_and_low _ _ _)
theorem sknp (x : Nibble) : Statement (.sknp x) := statement_of_and (fmtRegImm_and_low _ _ _)
theorem ldVxDT (x : Nibble) : Statement (.ldVxDT x) := statement_of_and (fmtRegImm_and_low _ _ _)
theorem ldVxK (x : Nibble) : Statement (.ldVxK x) := statement_of_and (fmtRegImm_and_low _ _ _)
theorem ldDTVx (x : Nibble) : Statement (.ldDTVx x) := statement_of_and (fmtRegImm_and_low _ _ _)
theorem ldSTVx (x : Nibble) : Statement (.ldSTVx x) := statement_of_and (fmtRegImm_and_low _ _ _)
theorem addIVx (x : Nibble) : Statement (.addIVx x) := statement_of_and (fmtRegImm_and_low _ _ _)
theorem ldFVx (x : Nibble) : Statement (.ldFVx x) := statement_of_and (fmtRegImm_and_low _ _ _)
theorem ldBVx (x : Nibble) : Statement (.ldBVx x) := statement_of_and (fmtRegImm_and_low _ _ _)
theorem storeRegs (x : Nibble) : Statement (.storeRegs x) := statement_of_and (fmtRegImm_and_low _ _ _)
theorem loadRegs (x : Nibble) : Statement (.loadRegs x) := statement_of_and (fmtRegImm_and_low _ _ _)

end Sys2Proof.Laws.TableRow
end

