-- ==== Sys2Proof/Laws/Results.lean ====
section
/-! SUPPORT. The ALU results, flags, operand forms and register sequences as numbers and reads. -/

namespace Sys2Proof.Machine

/-! ### Results and flags (R90) -/

theorem toNat_flagByte (c : Bool) : (flagByte c).toNat = if c then 1 else 0 := by cases c <;> rfl

theorem toNat_addResult (a b : Byte) : (addResult a b).toNat = (a.toNat + b.toNat) % 256 := by simp [addResult]

theorem toNat_subResult (a b : Byte) : (subResult a b).toNat = (a.toNat + 256 - b.toNat) % 256 := by
  simp [subResult]

theorem toNat_shrResult (a : Byte) : (shrResult a).toNat = a.toNat / 2 := by
  have := a.isLt
  simp [shrResult]; omega

theorem toNat_shlResult (a : Byte) : (shlResult a).toNat = a.toNat * 2 % 256 := by simp [shlResult]

/-- Old bit 0 is the remainder by 2 (R99). -/
theorem toNat_shrFlag (a : Byte) : (shrFlag a).toNat = a.toNat % 2 := by
  simp [shrFlag, toNat_flagByte, BitVec.getLsbD, Nat.testBit_zero]; split <;> omega

/-- Old bit 7 is the quotient by 128 (R101). -/
theorem toNat_shlFlag (a : Byte) : (shlFlag a).toNat = a.toNat / 128 := by
  have := a.isLt
  simp only [shlFlag, toNat_flagByte, BitVec.getLsbD, Nat.testBit_eq_decide_div_mod_eq]
  simp; split <;> omega

/-! ### Operand forms -/

/-- `Vx[3:0]` is the remainder by 16 (R107, R122). -/
theorem toNat_lowNibble (b : Byte) : (lowNibble b).toNat = b.toNat % 16 := by simp [lowNibble]

theorem toNat_timer_sub (t : Byte) (h : t ≠ 0x00#8) : (t - 0x01#8).toNat = t.toNat - 1 := by
  have h' : t.toNat ≠ 0 := fun e => h (BitVec.eq_of_toNat_eq e)
  have := t.isLt
  simp [BitVec.toNat_sub]; omega

/-! ### V0 to Vx loaded from memory (R110) -/

/-- Loading changes the register file only, and each register of the sequence holds its byte. -/
theorem loadedRegs_spec (s : State) (n : Nat) (hn : n ≤ 16) :
    (∀ r, (loadedRegs s n).reg r = if r.toNat < n then s.readByte (indexAddr s r.toNat) else s.reg r) ∧
    loadedRegs s n = { s with regs := (loadedRegs s n).regs } := by
  induction n with
  | zero => simp [loadedRegs]
  | succ n ih =>
    obtain ⟨hreg, hrest⟩ := ih (by omega)
    have hsucc : loadedRegs s (n + 1) =
        (loadedRegs s n).setReg (regOf n) ((loadedRegs s n).readByte (indexAddr (loadedRegs s n) n)) := by
      simp [loadedRegs, List.range_succ]
    have hmem : ∀ a, (loadedRegs s n).readByte a = s.readByte a := by intro a; rw [hrest]; rfl
    have hi : (loadedRegs s n).i = s.i := by rw [hrest]
    refine ⟨fun r => ?_, by rw [hsucc, State.setReg, hrest]⟩
    have hr : r = regOf n ↔ r.toNat = n := by
      rw [← BitVec.toNat_inj]; simp [regOf]; omega
    rw [hsucc, reg_setReg, hmem, hreg, indexAddr, hi]
    simp only [hr]
    split
    · next h => rw [if_pos (by omega), h]; rfl
    · next h => simp only [show r.toNat < n ↔ r.toNat < n + 1 by omega]

end Sys2Proof.Machine
end

