-- ==== Sys2Proof/Laws/Step.lean ====
section
/-! SUPPORT. What a TICK can do, said once; and unchangedBut as a relation. -/

namespace Sys2Proof.Machine

/-- Inversion of `step`: halted and nothing happens, or the decoded instruction runs, or a no-op (R70, R75, R58). -/
theorem step_cases {s t : State} (h : step s = .next t) :
    (s.fault ≠ .none ∧ t = s) ∨
    (s.fault = .none ∧ ∃ i, decode s.fetch = .ok i ∧ exec i s = .next t) ∨
    (s.fault = .none ∧ (∃ r, decode s.fetch = .error r) ∧ t = s.advance) := by
  unfold step at h
  split at h
  · next hf =>
    split at h
    · next i hi => exact .inr (.inl ⟨hf, i, hi, h⟩)
    · next r hi => cases h; exact .inr (.inr ⟨hf, ⟨r, hi⟩, rfl⟩)
  · next hf => cases h; exact .inl ⟨hf, rfl⟩

theorem unchangedBut_refl (ps : List Part) (s : State) : unchangedBut ps s s := by
  intro p _; cases p <;> simp [Part.same]

theorem unchangedBut_trans {ps : List Part} {s t u : State} (h : unchangedBut ps s t) (h' : unchangedBut ps t u) :
    unchangedBut ps s u := by
  intro p hp
  have a := h p hp
  have b := h' p hp
  cases p <;> simp only [Part.same] at a b ⊢ <;> (try intros) <;> simp_all

/-- A sequence of writes after the advance changes the pc and memory only (R108, R109). -/
theorem unchangedBut_advance_writeBytes (s : State) (a : Nat) (bs : List Byte) :
    unchangedBut [.pc, .mem] s (s.advance.writeBytes a bs) := by
  rw [writeBytes_setMem]
  intro p hp; cases p <;> simp_all [Part.same]

/-- What a timer's decrement gives (R127). -/
theorem toNat_timerDown (t : Byte) : (timerDown t).toNat = t.toNat - 1 := by
  unfold timerDown
  split
  · next h => simp [h]
  · next h => exact toNat_timer_sub t h

end Sys2Proof.Machine
end

