-- ==== Sys2Proof/Tests/Slice0.lean ====
section
/-! SUPPORT. The model's own tests. Expected values come from the spec's encodings (R55) and from the vectors of
95_test_vectors.md, whose ids stand in the comments; the last part gives witnesses for hypotheses of the obligations. -/

namespace Sys2Proof.Tests

open Sys2Proof Sys2Proof.Machine

/-! ### Helpers -/

/-- Running one TICK and asking something of the next state. -/
def tick (s : State) (f : State → Bool) : Bool :=
  match step s with
  | .next t => f t
  | .fault _ => false
  | .refused _ => false

/-- A state with the word `w` at its pc, as the vectors place it. -/
def at_ (s : State) (w : Nat) : State := s.withFetchWord 16 w

/-- The reset state with two registers written. -/
def regs2 (x : Nibble) (a : Byte) (y : Nibble) (b : Byte) : State := (State.reset.setReg x a).setReg y b

/-- The reset state with one register written. -/
def reg1 (x : Nibble) (a : Byte) : State := State.reset.setReg x a

/-- The reset state with `sp = n`. -/
def spAt (n : Fin 17) : State := { State.reset with sp := n }

/-- A drawing state: `I = 0x300`, one sprite byte there, V0 and V1 the coordinates. -/
def sprite (b x y : Byte) : State := ((regs2 0x0#4 x 0x1#4 y).setI 0x0300#16).writeByte 0x300 b

/-! ### Well-formedness: an ill-formed term for each check -/

theorem test_wf_sys_00E0 : (Instr.sys 0x0E0#12).wf = false := by decide
theorem test_wf_sys_00EE : (Instr.sys 0x0EE#12).wf = false := by decide
theorem test_wf_sys_0000 : (Instr.sys 0x000#12).wf = true := by decide

/-! ### Decoding: words written bit by bit from R55 -/

theorem test_decode_sys : decode 0b0000000100100011#16 = .ok (.sys 0x123#12) := by decide
theorem test_decode_cls : decode 0b0000000011100000#16 = .ok (.cls) := by decide
theorem test_decode_ret : decode 0b0000000011101110#16 = .ok (.ret) := by decide
theorem test_decode_jp : decode 0b0001101010111100#16 = .ok (.jp 0xABC#12) := by decide
theorem test_decode_call : decode 0b0010010000000000#16 = .ok (.call 0x400#12) := by decide
theorem test_decode_seByte : decode 0b0011001100010000#16 = .ok (.seByte 0x3#4 0x10#8) := by decide
theorem test_decode_sneByte : decode 0b0100001100010001#16 = .ok (.sneByte 0x3#4 0x11#8) := by decide
theorem test_decode_seReg : decode 0b0101000100100000#16 = .ok (.seReg 0x1#4 0x2#4) := by decide
theorem test_decode_ldByte : decode 0b0110111110101011#16 = .ok (.ldByte 0xF#4 0xAB#8) := by decide
theorem test_decode_addByte : decode 0b0111000011111111#16 = .ok (.addByte 0x0#4 0xFF#8) := by decide
theorem test_decode_ldReg : decode 0b1000111011110000#16 = .ok (.ldReg 0xE#4 0xF#4) := by decide
theorem test_decode_orReg : decode 0b1000000100100001#16 = .ok (.orReg 0x1#4 0x2#4) := by decide
theorem test_decode_andReg : decode 0b1000000100100010#16 = .ok (.andReg 0x1#4 0x2#4) := by decide
theorem test_decode_xorReg : decode 0b1000000100100011#16 = .ok (.xorReg 0x1#4 0x2#4) := by decide
theorem test_decode_addReg : decode 0b1000101010110100#16 = .ok (.addReg 0xA#4 0xB#4) := by decide
theorem test_decode_subReg : decode 0b1000101010110101#16 = .ok (.subReg 0xA#4 0xB#4) := by decide
theorem test_decode_shr : decode 0b1000000100100110#16 = .ok (.shr 0x1#4 0x2#4) := by decide
theorem test_decode_subnReg : decode 0b1000000100100111#16 = .ok (.subnReg 0x1#4 0x2#4) := by decide
theorem test_decode_shl : decode 0b1000000100001110#16 = .ok (.shl 0x1#4 0x0#4) := by decide
theorem test_decode_sneReg : decode 0b1001000100100000#16 = .ok (.sneReg 0x1#4 0x2#4) := by decide
theorem test_decode_ldI : decode 0b1010111111111111#16 = .ok (.ldI 0xFFF#12) := by decide
theorem test_decode_jpV0 : decode 0b1011001100000000#16 = .ok (.jpV0 0x300#12) := by decide
theorem test_decode_rnd : decode 0b1100001100001111#16 = .ok (.rnd 0x3#4 0x0F#8) := by decide
theorem test_decode_drw : decode 0b1101010110100111#16 = .ok (.drw 0x5#4 0xA#4 0x7#4) := by decide
theorem test_decode_skp : decode 0b1110010110011110#16 = .ok (.skp 0x5#4) := by decide
theorem test_decode_sknp : decode 0b1110010110100001#16 = .ok (.sknp 0x5#4) := by decide
theorem test_decode_ldVxDT : decode 0b1111000100000111#16 = .ok (.ldVxDT 0x1#4) := by decide
theorem test_decode_ldVxK : decode 0b1111001000001010#16 = .ok (.ldVxK 0x2#4) := by decide
theorem test_decode_ldDTVx : decode 0b1111001100010101#16 = .ok (.ldDTVx 0x3#4) := by decide
theorem test_decode_ldSTVx : decode 0b1111010000011000#16 = .ok (.ldSTVx 0x4#4) := by decide
theorem test_decode_addIVx : decode 0b1111001000011110#16 = .ok (.addIVx 0x2#4) := by decide
theorem test_decode_ldFVx : decode 0b1111010000101001#16 = .ok (.ldFVx 0x4#4) := by decide
theorem test_decode_ldBVx : decode 0b1111001100110011#16 = .ok (.ldBVx 0x3#4) := by decide
theorem test_decode_storeRegs : decode 0b1111001001010101#16 = .ok (.storeRegs 0x2#4) := by decide
theorem test_decode_loadRegs : decode 0b1111111101100101#16 = .ok (.loadRegs 0xF#4) := by decide

/-- D-8: unrecognized words of families 5, 8, 9, E and F. -/
theorem test_decode_unrecognized :
    decode 0x5121#16 = .error (.family5 0x5121#16) ∧ decode 0x8128#16 = .error (.family8 0x8128#16) ∧
    decode 0x9121#16 = .error (.family9 0x9121#16) ∧ decode 0xE19F#16 = .error (.familyE 0xE19F#16) ∧
    decode 0xF1FF#16 = .error (.familyF 0xF1FF#16) := by decide

/-- An instruction has two bytes (R50). -/
theorem test_decode_too_few_bytes : decodeBytes [0x12#8] = .error .tooFewBytes := by decide

/-- D-1 through the host's numbering: bit 0 is the least significant bit of the word. -/
theorem test_decode_table_word : decodeTableWord 16 0x1234 = some (.jp 0x234#12) := by decide

/-! ### Fetch, decode, pc -/

/-- D-1. -/
theorem test_big_endian : tick ((State.reset.writeByte 0x200 0x12#8).writeByte 0x201 0x34#8)
    (fun t => t.pc == 0x234#16) = true := by decide
/-- D-3: no-op at 4094, the pc wraps. -/
theorem test_pc_wraps : tick (State.reset.setPc 0xFFE) (fun t => t.pc == 0x000#16) = true := by decide
/-- D-4: the low byte of a fetch at 4095 comes from address 0. -/
theorem test_fetch_wraps : tick (((State.reset.setPc 0xFFF).writeByte 0xFFF 0x12#8).writeByte 0x000 0x34#8)
    (fun t => t.pc == 0x234#16) = true := by decide
/-- D-5: an odd pc is legal. -/
theorem test_odd_pc : tick (at_ (State.reset.setPc 0x201) 0x6007)
    (fun t => t.reg 0x0#4 == 0x07#8 && t.pc == 0x203#16) = true := by decide
/-- D-7, D-8: unrecognized words are no-ops. -/
theorem test_unrecognized : (tick (at_ (regs2 0x1#4 7#8 0x2#4 7#8) 0x5121) (fun t => t.pc == 0x202#16) &&
    tick (at_ (reg1 0x1#4 7#8) 0xF175) (fun t => t.pc == 0x202#16 && t.reg 0x1#4 == 7#8)) = true := by decide

/-! ### Control flow -/

/-- D-9. -/
theorem test_sys : tick (at_ State.reset 0x00E1) (fun t => t.pc == 0x202#16) = true := by decide
/-- CF-1, CF-2. -/
theorem test_jp : (tick (at_ State.reset 0x1ABC) (fun t => t.pc == 0xABC#16) &&
    tick (at_ State.reset 0x1200) (fun t => t == at_ State.reset 0x1200)) = true := by decide
/-- CF-4, CF-8. -/
theorem test_call : (tick (at_ (spAt 15) 0x2300) (fun t => t.stack[15] == 0x202#16 && t.sp == 16 && t.pc == 0x300#16) &&
    tick (at_ (State.reset.setPc 0xFFE) 0x2300) (fun t => t.stack[0] == 0x000#16 && t.sp == 1)) = true := by decide
/-- CF-5: StackOverflow commits nothing; a further TICK changes nothing. -/
theorem test_call_overflow : (tick (at_ (spAt 16) 0x2300) (fun t =>
    t == (at_ (spAt 16) 0x2300).raise .stackOverflow && tick t (fun u => u == t))) = true := by decide
/-- CF-7: the popped entry stays. -/
theorem test_ret : tick (at_ { spAt 2 with stack := State.reset.stack.set 1 0x0456#16 } 0x00EE)
    (fun t => t.pc == 0x456#16 && t.sp == 1 && t.stack[1] == 0x0456#16) = true := by decide
/-- CF-6. -/
theorem test_ret_underflow : tick (at_ State.reset 0x00EE)
    (fun t => getFault t == 2#2 && t.pc == 0x200#16 && t.sp == 0) = true := by decide
/-- CF-9. -/
theorem test_seByte : (tick (at_ (reg1 0x3#4 0x10#8) 0x3310) (fun t => t.pc == 0x204#16) &&
    tick (at_ (reg1 0x3#4 0x10#8) 0x3311) (fun t => t.pc == 0x202#16)) = true := by decide
/-- CF-14: a taken skip wraps. -/
theorem test_skip_wraps : tick (at_ (State.reset.setPc 0xFFC) 0x3000) (fun t => t.pc == 0x000#16) = true := by decide
/-- CF-10. -/
theorem test_sneByte : (tick (at_ (reg1 0x3#4 0x10#8) 0x4310) (fun t => t.pc == 0x202#16) &&
    tick (at_ (reg1 0x3#4 0x10#8) 0x4311) (fun t => t.pc == 0x204#16)) = true := by decide
/-- CF-11, CF-12. -/
theorem test_seReg : (tick (at_ (regs2 0x1#4 7#8 0x2#4 7#8) 0x5120) (fun t => t.pc == 0x204#16) &&
    tick (at_ (regs2 0x1#4 7#8 0x2#4 8#8) 0x5120) (fun t => t.pc == 0x202#16)) = true := by decide
/-- CF-11, CF-12. -/
theorem test_sneReg : (tick (at_ (regs2 0x1#4 7#8 0x2#4 7#8) 0x9120) (fun t => t.pc == 0x202#16) &&
    tick (at_ (regs2 0x1#4 7#8 0x2#4 8#8) 0x9120) (fun t => t.pc == 0x204#16)) = true := by decide
/-- CF-16. -/
theorem test_jpV0 : tick (at_ (reg1 0x0#4 0xFF#8) 0xBFFF) (fun t => t.pc == 0x0FE#16) = true := by decide

/-! ### ALU -/

/-- A-1. -/
theorem test_ldByte : tick (at_ State.reset 0x6FAB) (fun t => t.reg 0xF#4 == 0xAB#8) = true := by decide
/-- A-2: no flag. -/
theorem test_addByte : tick (at_ (reg1 0x0#4 0xFF#8) 0x7001)
    (fun t => t.reg 0x0#4 == 0x00#8 && t.reg 0xF#4 == 0x00#8) = true := by decide
/-- A-4. -/
theorem test_ldReg : tick (at_ (reg1 0x2#4 0x5A#8) 0x8120) (fun t => t.reg 0x1#4 == 0x5A#8) = true := by decide
/-- A-5. -/
theorem test_logic : ([(0x8121, 0xFC#8), (0x8122, 0x30#8), (0x8123, 0xCC#8)].all fun c =>
    tick (at_ ((regs2 0x1#4 0xF0#8 0x2#4 0x3C#8).setVF 0x01#8) c.1)
      (fun t => t.reg 0x1#4 == c.2 && t.reg 0xF#4 == 0x01#8)) = true := by decide
/-- S-2. -/
theorem test_addReg : tick (at_ (regs2 0xA#4 0xFF#8 0xB#4 0x01#8) 0x8AB4)
    (fun t => t.reg 0xA#4 == 0x00#8 && t.reg 0xF#4 == 0x01#8) = true := by decide
/-- A-10: with X = F the flag wins. -/
theorem test_addReg_vf : tick (at_ (regs2 0xF#4 0xF0#8 0x1#4 0x20#8) 0x8F14) (fun t => t.reg 0xF#4 == 0x01#8) = true := by
  decide
/-- S-3. -/
theorem test_subReg : tick (at_ ((regs2 0xA#4 0x01#8 0xB#4 0x02#8).setVF 0x01#8) 0x8AB5)
    (fun t => t.reg 0xA#4 == 0xFF#8 && t.reg 0xF#4 == 0x00#8) = true := by decide
/-- A-12: equal operands, no borrow. -/
theorem test_subReg_equal : tick (at_ (regs2 0x1#4 0x05#8 0x2#4 0x05#8) 0x8125)
    (fun t => t.reg 0x1#4 == 0x00#8 && t.reg 0xF#4 == 0x01#8) = true := by decide
/-- A-17: Y is ignored. -/
theorem test_shr : tick (at_ (regs2 0x1#4 0x04#8 0x2#4 0xFF#8) 0x8126)
    (fun t => t.reg 0x1#4 == 0x02#8 && t.reg 0xF#4 == 0x00#8 && t.reg 0x2#4 == 0xFF#8) = true := by decide
/-- S-4. -/
theorem test_shr_out : tick (at_ (reg1 0x1#4 0x03#8) 0x8106)
    (fun t => t.reg 0x1#4 == 0x01#8 && t.reg 0xF#4 == 0x01#8) = true := by decide
/-- A-15, A-16. -/
theorem test_subnReg : (tick (at_ (regs2 0x1#4 0x01#8 0x2#4 0x03#8) 0x8127)
      (fun t => t.reg 0x1#4 == 0x02#8 && t.reg 0xF#4 == 0x01#8) &&
    tick (at_ (regs2 0x1#4 0x03#8 0x2#4 0x01#8) 0x8127)
      (fun t => t.reg 0x1#4 == 0xFE#8 && t.reg 0xF#4 == 0x00#8)) = true := by decide
/-- A-20, A-21. -/
theorem test_shl : (tick (at_ (reg1 0x1#4 0x81#8) 0x810E) (fun t => t.reg 0x1#4 == 0x02#8 && t.reg 0xF#4 == 0x01#8) &&
    tick (at_ (reg1 0x1#4 0x40#8) 0x810E) (fun t => t.reg 0x1#4 == 0x80#8 && t.reg 0xF#4 == 0x00#8)) = true := by decide
/-- A-24: a mask of 0 gives 0 whatever the draw. -/
theorem test_rnd_zero_mask : exec (.rnd 0x3#4 0x00#8) State.reset =
    .next (State.reset.advance.drawn.setReg 0x3#4 0x00#8) := by
  simp [exec, execRnd]

/-! ### Index and memory -/

/-- M-1. -/
theorem test_ldI : tick (at_ State.reset 0xAFFF) (fun t => t.i == 0x0FFF#16) = true := by decide
/-- M-3. -/
theorem test_addIVx : tick (at_ ((reg1 0x2#4 0x01#8).setI 0x0FFF#16) 0xF21E)
    (fun t => t.i == 0x1000#16 && t.reg 0xF#4 == 0x00#8) = true := by decide
/-- M-5. -/
theorem test_ldFVx : tick (at_ (reg1 0x4#4 0x1A#8) 0xF429) (fun t => t.i == 0x0032#16) = true := by decide
/-- M-8: the digits wrap to address 0. -/
theorem test_ldBVx : tick (at_ ((reg1 0x3#4 0xFF#8).setI 0x0FFF#16) 0xF333)
    (fun t => t.readByte 0xFFF == 2#8 && t.readByte 0x000 == 5#8 && t.readByte 0x001 == 5#8) = true := by decide
/-- M-9. -/
theorem test_storeRegs : tick (at_ (((regs2 0x0#4 1#8 0x1#4 2#8).setReg 0x2#4 3#8).setReg 0x3#4 9#8 |>.setI 0x0400#16) 0xF255)
    (fun t => t.readByte 0x400 == 1#8 && t.readByte 0x402 == 3#8 && t.readByte 0x403 == 0#8 && t.i == 0x0400#16) = true := by
  decide
/-- M-12: the stored bytes are the next instruction. -/
theorem test_store_is_code : tick (at_ ((reg1 0x0#4 0x12#8).setI 0x0202#16) 0xF155)
    (fun t => tick t (fun u => u.pc == 0x200#16)) = true := by decide
/-- M-10. -/
theorem test_loadRegs : tick (at_ ((((reg1 0x3#4 0x77#8).setI 0x0400#16).writeByte 0x400 0x0A#8).writeByte 0x402 0x0C#8) 0xF265)
    (fun t => t.reg 0x0#4 == 0x0A#8 && t.reg 0x2#4 == 0x0C#8 && t.reg 0x3#4 == 0x77#8 && t.i == 0x0400#16) = true := by
  decide
/-- M-11. -/
theorem test_loadRegs_vf : tick (at_ ((State.reset.setI 0x0400#16).writeByte 0x40F 0x5A#8) 0xFF65)
    (fun t => t.reg 0xF#4 == 0x5A#8) = true := by decide

/-! ### Display -/

/-- D-10. -/
theorem test_cls : tick (at_ (State.reset.setFb (State.reset.fb.flip 3 4)) 0x00E0)
    (fun t => t.pixel 3 4 == false && t.pixel 63 31 == false && t.pc == 0x202#16) = true := by decide
/-- S-5: clipped at the right edge, no wrap to column 0. -/
theorem test_drw_clips : tick (at_ (sprite 0xFF#8 60#8 0#8) 0xD011)
    (fun t => t.pixel 59 0 == false && t.pixel 60 0 && t.pixel 63 0 && t.pixel 0 0 == false && t.reg 0xF#4 == 0#8) = true := by
  decide
/-- G-13: a collision, and clipped bits that cause nothing. -/
theorem test_drw_collides : tick (at_ ((sprite 0xFF#8 60#8 0#8).setFb (State.reset.fb.flip 63 0)) 0xD011)
    (fun t => t.pixel 62 0 && t.pixel 63 0 == false && t.reg 0xF#4 == 1#8) = true := by decide

/-! ### Keypad and timers -/

/-- K-3, K-2. -/
theorem test_skp : (tick (at_ ((reg1 0x5#4 0x13#8).setKey 0x3#4 true) 0xE59E) (fun t => t.pc == 0x204#16) &&
    tick (at_ (reg1 0x5#4 0x03#8) 0xE59E) (fun t => t.pc == 0x202#16)) = true := by decide
/-- K-1, K-2. -/
theorem test_sknp : (tick (at_ ((reg1 0x5#4 0x03#8).setKey 0x3#4 true) 0xE5A1) (fun t => t.pc == 0x202#16) &&
    tick (at_ (reg1 0x5#4 0x03#8) 0xE5A1) (fun t => t.pc == 0x204#16)) = true := by decide
/-- K-4: no key, the state stays. -/
theorem test_ldVxK_waits : tick (at_ (reg1 0x2#4 0x55#8) 0xF20A) (fun t => t == at_ (reg1 0x2#4 0x55#8) 0xF20A) = true := by
  decide
/-- K-5: the lowest of two keys. -/
theorem test_ldVxK : tick (at_ ((State.reset.setKey 0x9#4 true).setKey 0x7#4 true) 0xF20A)
    (fun t => t.reg 0x2#4 == 0x07#8 && t.pc == 0x202#16) = true := by decide
/-- K-7. -/
theorem test_ldVxDT : tick (at_ (State.reset.setDT 0x2A#8) 0xF107) (fun t => t.reg 0x1#4 == 0x2A#8) = true := by decide
/-- K-8. -/
theorem test_ldDTVx : tick (at_ (reg1 0x0#4 0x03#8) 0xF015) (fun t => t.dt == 0x03#8 && t.st == 0#8) = true := by decide
/-- K-9. -/
theorem test_ldSTVx : tick (at_ (reg1 0x0#4 0x1E#8) 0xF018) (fun t => t.st == 0x1E#8 && t.dt == 0#8) = true := by decide

/-! ### Host operations -/

/-- K-10. -/
theorem test_advanceTimers : (advanceTimers ((State.reset.setDT 1#8).setST 2#8)).dt = 0#8 ∧
    (advanceTimers ((State.reset.setDT 0#8).setST 1#8)).st = 0#8 ∧ (advanceTimers State.reset).dt = 0#8 := by decide
/-- S-1, H-5: LOAD, then the loaded program's first TICK. -/
theorem test_load : (runEvents [.reset, .load [0x60#8, 0x07#8], .tick] (spAt 3)).reg 0x0#4 = 0x07#8 ∧
    (runEvents [.load [0xAA#8, 0xBB#8, 0xCC#8]] State.reset).readByte 0x202 = 0xCC#8 := by decide
/-- K-14: the timers run while halted. -/
theorem test_halted_timers : (runEvents [.tick, .advanceTimers] ((at_ State.reset 0x00EE).setST 2#8)).st = 1#8 := by decide
/-- H-6: TICK before ADVANCE_TIMERS at one instant. -/
theorem test_same_instant : (serve ⟨false, none, none, true, true⟩ (at_ (State.reset.setDT 3#8) 0xF107)).reg 0x1#4 = 3#8 ∧
    (serve ⟨false, none, none, true, true⟩ (at_ (State.reset.setDT 3#8) 0xF107)).dt = 2#8 := by decide
/-- K-12: a key is set and released. -/
theorem test_keypress : (runEvents [.keypress 15 true] State.reset).key 0xF#4 = true ∧
    runEvents [.keypress 15 true, .keypress 15 false] State.reset = State.reset ∧
    runEvents [.keypress 16 true] State.reset = State.reset := by decide

/-! ### Witnesses: states and operands that meet the hypotheses of the obligations -/

theorem witness_SysIsNoOp : (0x0E1#12 : Addr) ≠ 0x0E0#12 ∧ (0x0E1#12 : Addr) ≠ 0x0EE#12 := by decide
/-- RET with the first and with the sixteenth entry on top, and with none. -/
theorem witness_RetPopsOrUnderflows :
    ((spAt 1).sp.val = (0 : Fin 16).val + 1 ∧ ((spAt 1).stack[0]).toNat < 4096) ∧
    ((spAt 16).sp.val = (15 : Fin 16).val + 1 ∧ ((spAt 16).stack[15]).toNat < 4096) ∧ (spAt 0).sp.val = 0 := by decide
/-- CALL with no entry active, with fifteen, and with sixteen. -/
theorem witness_CallPushesOrOverflows : (spAt 0).sp.val < 16 ∧ (spAt 15).sp.val < 16 ∧ (spAt 16).sp.val = 16 := by decide
theorem witness_CallThenRetReturns : ∃ t u : State, (spAt 15).sp.val < 16 ∧
    exec (.call 0x400#12) (spAt 15) = .next t ∧ u.sp = t.sp ∧ u.stack = t.stack :=
  ⟨_, _, by decide, rfl, rfl, rfl⟩
theorem witness_StoredCodeIsFetchedNext : 1 ≤ (0x1#4 : Nibble).toNat ∧
    indexAddr (State.reset.setI 0x0202#16) 0 % 4096 = nextPc (State.reset.setI 0x0202#16) := by decide
theorem witness_DrwTwiceRestores : ∃ t, (0x0#4 : Nibble) ≠ 0xF#4 ∧ (0x1#4 : Nibble) ≠ 0xF#4 ∧
    exec (.drw 0x0#4 0x1#4 0x1#4) (sprite 0xFF#8 60#8 0#8) = .next t :=
  ⟨_, by decide, by decide, rfl⟩
/-- The least key is F, is 0 with F pressed too, and none is pressed. -/
theorem witness_LdVxKTakesLeastKeyOrWaits :
    ((State.reset.setKey 0xF#4 true).key 0xF#4 = true ∧
      ∀ j : Nibble, j.toNat < (0xF#4 : Nibble).toNat → (State.reset.setKey 0xF#4 true).key j = false) ∧
    (((State.reset.setKey 0x0#4 true).setKey 0xF#4 true).key 0x0#4 = true ∧
      ∀ j : Nibble, j.toNat < (0x0#4 : Nibble).toNat → State.reset.key j = false) ∧
    (∀ k : Nibble, State.reset.key k = false) := by decide
theorem witness_DecodeOfEncode : (Instr.sys 0x0EF#12).wf = true ∧ (Instr.shr 0x1#4 0xF#4).wf = true := by decide
theorem witness_DecodeIsExact : decode 0x81F6#16 = .ok (.shr 0x1#4 0xF#4) := by decide
/-- The word 0x00E0 matches two rows, and 0x5001 none. -/
theorem witness_DecodeFollowsTable :
    decode 0x00E0#16 = .ok .cls ∧ rowMatches (0xF000#16, 0x0000#16) 0x00E0#16 = true ∧
    rowMatches (0xFFFF#16, 0x00E0#16) 0x00E0#16 = true ∧ (0xF000#16, 0x0000#16) ∈ opcodeTable ∧
    (0xFFFF#16, 0x00E0#16) ∈ opcodeTable ∧ decode 0x5001#16 = .error (.family5 0x5001#16) := by decide
theorem witness_StepRunsDecodedInstr : (at_ State.reset 0x6007).fault = .none ∧
    decodeBytes [(at_ State.reset 0x6007).readByte (at_ State.reset 0x6007).pc.toNat,
      (at_ State.reset 0x6007).readByte ((at_ State.reset 0x6007).pc.toNat + 1)] = .ok (.ldByte 0x0#4 0x07#8, []) := by decide
theorem witness_UnrecognizedIsNoOp : (at_ State.reset 0x5121).fault = .none ∧
    decode (at_ State.reset 0x5121).fetch = .error (.family5 0x5121#16) := by decide
theorem witness_HaltedIgnoresTicks : (State.reset.raise .stackUnderflow).halted := by
  unfold State.halted; decide
theorem witness_FaultCommitsOnlyTheLatch :
    (∃ t, (at_ (spAt 16) 0x2300).fault = .none ∧ step (at_ (spAt 16) 0x2300) = .next t ∧ t.fault ≠ .none) ∧
    (∃ t, (at_ State.reset 0x00EE).fault = .none ∧ step (at_ State.reset 0x00EE) = .next t ∧ t.fault ≠ .none) :=
  ⟨⟨(at_ (spAt 16) 0x2300).raise .stackOverflow, by decide, rfl, by decide⟩,
   ⟨(at_ State.reset 0x00EE).raise .stackUnderflow, by decide, rfl, by decide⟩⟩
theorem witness_TickLeavesTimersAndKeys : ∃ t, step (at_ State.reset 0x6007) = .next t ∧
    (∀ x, decode (at_ State.reset 0x6007).fetch ≠ .ok (.ldDTVx x)) ∧
    (∀ x, decode (at_ State.reset 0x6007).fetch ≠ .ok (.ldSTVx x)) ∧
    (∀ nnn, decode (at_ State.reset 0x6007).fetch ≠ .ok (.call nnn)) ∧ decode (at_ State.reset 0x6007).fetch ≠ .ok .ret := by
  have h : decode (at_ State.reset 0x6007).fetch = .ok (.ldByte 0x0#4 0x07#8) := by decide
  refine ⟨(at_ State.reset 0x6007).advance.setReg 0x0#4 0x07#8, rfl, fun _ => ?_, fun _ => ?_, fun _ => ?_, ?_⟩ <;>
    rw [h] <;> exact fun e => nomatch e
theorem witness_PartsWrittenOnlyAsTabled : ∃ t, exec (.ldI 0x300#12) State.reset = .next t := ⟨_, rfl⟩
theorem witness_RegsWrittenOnlyAsTabled : ∃ t, exec (.ldByte 0xF#4 0x01#8) State.reset = .next t ∧
    t.reg 0xF#4 ≠ State.reset.reg 0xF#4 :=
  ⟨State.reset.advance.setReg 0xF#4 0x01#8, rfl, by decide⟩
theorem witness_IdleLoopIsFixed : (at_ State.reset 0x1200).idle := by
  unfold State.idle; decide
theorem witness_StepKeepsInv : ∃ t, State.reset.Inv ∧ step State.reset = .next t :=
  ⟨State.reset.advance, by unfold State.Inv; decide, rfl⟩
/-- Also in a state with sixteen entries active and the last address written. -/
theorem witness_EventsKeepInv : State.reset.Inv ∧ ((spAt 16).writeByte 0xFFF 0x01#8).Inv :=
  ⟨by unfold State.Inv; decide, by unfold State.Inv; decide⟩
theorem witness_HaltedUntilReset : (State.reset.raise .stackOverflow).halted ∧ Event.reset ∉ [Event.tick, .advanceTimers] :=
  ⟨by unfold State.halted; decide, by decide⟩
/-- LOAD of nothing and of the most; the clauses on addresses below, and at and above, the end of the bytes. -/
theorem witness_LoadCopiesBytes : ([] : List Byte).length ≤ 3584 ∧ (List.replicate 3584 (0x01#8 : Byte)).length ≤ 3584 ∧
    (511 < 512) ∧ (512 + ([] : List Byte).length ≤ 512 ∧ 512 < 4096) :=
  ⟨by decide, Nat.le_of_eq List.length_replicate, by decide, by decide⟩
theorem witness_LoadTooLongIsRefused : 3584 < (List.replicate 3585 (0x01#8 : Byte)).length :=
  Nat.lt_of_lt_of_eq (by decide : 3584 < 3585) List.length_replicate.symm
theorem witness_KeypressSetsOneKey : (0 < 16 ∧ 15 < 16) ∧ 15 < 16 := by decide
theorem witness_TickBeforeTimersAtOneInstant :
    (at_ State.reset 0xF107).fault = .none ∧ decode (at_ State.reset 0xF107).fetch = .ok (.ldVxDT 0x1#4) ∧
    (at_ State.reset 0xF115).fault = .none ∧ decode (at_ State.reset 0xF115).fetch = .ok (.ldDTVx 0x1#4) := by decide
/-- A cell the clipped sprite is on, and one it is not. -/
theorem witness_DrwTogglesSpriteCells : spriteOn (sprite 0xFF#8 60#8 0#8) 60 0 1 63 0 ∧
    ¬ spriteOn (sprite 0xFF#8 60#8 0#8) 60 0 1 0 0 := by
  unfold spriteOn; decide
/-- A draw that turns a cell off. -/
theorem witness_DrwTogglesSpriteCells_collision : ∃ t, exec (.drw 0x0#4 0x1#4 0x1#4)
      ((sprite 0xFF#8 60#8 0#8).setFb (State.reset.fb.flip 63 0)) = .next t ∧
    ((sprite 0xFF#8 60#8 0#8).setFb (State.reset.fb.flip 63 0)).pixel 63 0 = true ∧ t.pixel 63 0 = false :=
  ⟨_, rfl, by decide, by decide⟩
/-- The last cell of the grid. -/
theorem witness_AccessorsShowTheState : 63 < 64 ∧ 31 < 32 := by decide
/-- A register that is not the destination. -/
theorem witness_LogicIsBitwise : (0xF#4 : Nibble) ≠ 0x1#4 := by decide
/-- A register in the stored or loaded range, and an address outside the stored bytes. -/
theorem witness_StoreRegsStoresV0ToVx : (0xF#4 : Nibble).toNat ≤ (0xF#4 : Nibble).toNat ∧
    ∀ k : Nat, k ≤ (0x0#4 : Nibble).toNat → 1 % 4096 ≠ indexAddr State.reset k % 4096 := by
  refine ⟨by decide, fun k hk => ?_⟩
  have : k = 0 := by simpa using hk
  subst this; decide
theorem witness_LdBVxStoresDigits : ∀ k : Nat, k < 3 → 3 % 4096 ≠ indexAddr State.reset k % 4096 := by decide

end Sys2Proof.Tests
end

section
/-! SUPPORT. The frame of each update of the state: which part it may change. -/

namespace Sys2Proof.Machine

/-! ### unchangedBut as a calculus: more parts, and one change after another -/

theorem unchangedBut_mono {ps qs : List Part} {s t : State} (hsub : ps ⊆ qs) (h : unchangedBut ps s t) :
    unchangedBut qs s t := fun p hp => h p fun hmem => hp (hsub hmem)

/-- A change of `ps` and then one of `qs` is a change of both. -/
theorem unchangedBut_append {ps qs : List Part} {s u t : State} (h : unchangedBut ps s u) (h' : unchangedBut qs u t) :
    unchangedBut (ps ++ qs) s t :=
  unchangedBut_trans (unchangedBut_mono (List.subset_append_left ps qs) h)
    (unchangedBut_mono (List.subset_append_right ps qs) h')

/-! ### The frame of each update -/

theorem unchangedBut_setPc (s : State) (n : Nat) : unchangedBut [.pc] s (s.setPc n) := by
  intro p hp; cases p <;> simp_all [Part.same]

theorem unchangedBut_advance (s : State) : unchangedBut [.pc] s s.advance := unchangedBut_setPc s _

theorem unchangedBut_skipIf (s : State) (c : Bool) : unchangedBut [.pc] s (s.skipIf c) := by
  cases c
  · exact unchangedBut_refl _ s
  · exact unchangedBut_advance s

theorem unchangedBut_setReg (s : State) (x : Nibble) (v : Byte) : unchangedBut [.regs] s (s.setReg x v) := by
  intro p hp; cases p <;> simp_all [Part.same]

theorem unchangedBut_setVF (s : State) (f : Byte) : unchangedBut [.regs] s (s.setVF f) := unchangedBut_setReg s _ f

theorem unchangedBut_setRegAndFlag (s : State) (x : Nibble) (v f : Byte) :
    unchangedBut [.regs] s (s.setRegAndFlag x v f) :=
  unchangedBut_trans (unchangedBut_setReg s x v) (unchangedBut_setVF _ f)

theorem unchangedBut_setI (s : State) (v : Word) : unchangedBut [.i] s (s.setI v) := by
  intro p hp; cases p <;> simp_all [Part.same]

theorem unchangedBut_setDT (s : State) (v : Byte) : unchangedBut [.dt] s (s.setDT v) := by
  intro p hp; cases p <;> simp_all [Part.same]

theorem unchangedBut_setST (s : State) (v : Byte) : unchangedBut [.st] s (s.setST v) := by
  intro p hp; cases p <;> simp_all [Part.same]

theorem unchangedBut_setKey (s : State) (k : Nibble) (pressed : Bool) :
    unchangedBut [.keys] s (s.setKey k pressed) := by
  intro p hp; cases p <;> simp_all [Part.same]

theorem unchangedBut_setFb (s : State) (f : Framebuffer) : unchangedBut [.fb] s (s.setFb f) := by
  intro p hp; cases p <;> simp_all [Part.same]

theorem unchangedBut_raise (s : State) (c : FaultLatch) : unchangedBut [.fault] s (s.raise c) := by
  intro p hp; cases p <;> simp_all [Part.same]

theorem unchangedBut_drawn (s : State) : unchangedBut [.draws] s s.drawn := by
  intro p hp; cases p <;> simp_all [Part.same]

theorem unchangedBut_writeBytes (s : State) (a : Nat) (bs : List Byte) : unchangedBut [.mem] s (s.writeBytes a bs) := by
  intro p hp; cases p <;> simp_all [Part.same]

/-- Loading one register more is a load and then a `setReg` (R110). -/
theorem loadedRegs_succ (s : State) (n : Nat) :
    loadedRegs s (n + 1) =
      (loadedRegs s n).setReg (regOf n) ((loadedRegs s n).readByte (indexAddr (loadedRegs s n) n)) := by
  simp [loadedRegs, List.range_succ]

theorem unchangedBut_loadedRegs (s : State) (n : Nat) : unchangedBut [.regs] s (loadedRegs s n) := by
  induction n with
  | zero => exact unchangedBut_refl _ s
  | succ n ih => rw [loadedRegs_succ]; exact unchangedBut_trans ih (unchangedBut_setReg _ _ _)

theorem unchangedBut_push {s t : State} {v : Word} (h : s.push v = some t) : unchangedBut [.sp, .stack] s t := by
  obtain ⟨-, hnone⟩ | ⟨hlt, hsome⟩ := push_cases s v
  · rw [hnone] at h; cases h
  · rw [hsome] at h; cases h
    intro p hp; cases p <;> simp_all [Part.same, State.reg, State.key, State.readByte, State.pixel]

theorem unchangedBut_pop {s t : State} {v : Word} (h : s.pop = some (v, t)) : unchangedBut [.sp] s t := by
  obtain ⟨-, hnone⟩ | ⟨k, -, hsome⟩ := pop_cases s
  · rw [hnone] at h; cases h
  · rw [hsome] at h; cases h
    intro p hp; cases p <;> simp_all [Part.same, State.reg, State.key, State.readByte, State.pixel]

end Sys2Proof.Machine
end

section
/-! SUPPORT. What the meanings with more than one outcome answer, and that every TICK answers (O44). -/

namespace Sys2Proof.Machine

/-- RET underflows on an empty stack, and jumps to the popped entry otherwise (R82). -/
theorem execRet_cases (s : State) :
    (s.sp.val = 0 ∧ execRet s = .next (s.raise .stackUnderflow)) ∨
    ∃ v u, s.advance.pop = some (v, u) ∧ execRet s = .next (u.setPc v.toNat) := by
  obtain ⟨hsp, hpop⟩ | ⟨k, -, hpop⟩ := pop_cases s.advance
  · exact .inl ⟨hsp, by simp only [execRet, hpop]⟩
  · exact .inr ⟨_, _, hpop, by simp only [execRet, hpop]⟩

/-- CALL overflows on a full stack, and otherwise pushes the advanced pc and jumps (R84). -/
theorem execCall_cases (nnn : Addr) (s : State) :
    (s.sp.val = 16 ∧ execCall nnn s = .next (s.raise .stackOverflow)) ∨
    ∃ u, s.advance.push s.advance.pc = some u ∧ execCall nnn s = .next (u.setPc (addrOperand nnn)) := by
  obtain ⟨hsp, hpush⟩ | ⟨hlt, hpush⟩ := push_cases s.advance s.advance.pc
  · exact .inl ⟨hsp, by simp only [execCall, hpush]⟩
  · exact .inr ⟨_, hpush, by simp only [execCall, hpush]⟩

/-- LD Vx, K waits where it stands, or takes the key found (R118). -/
theorem execLdVxK_cases (x : Nibble) (s : State) :
    (s.lowestKey = none ∧ execLdVxK x s = .next s) ∨
    ∃ k, s.lowestKey = some k ∧ execLdVxK x s = .next (s.advance.setReg x (keyByte k)) := by
  cases hk : s.lowestKey with
  | none => exact .inl ⟨rfl, by simp only [execLdVxK, hk]⟩
  | some k => exact .inr ⟨k, rfl, by simp only [execLdVxK, hk]⟩

/-- Every instruction ends in a next state, in every state. -/
theorem exec_answers (i : Instr) (s : State) : ∃ t, exec i s = .next t := by
  cases i with
  | ret => obtain ⟨-, h⟩ | ⟨v, u, -, h⟩ := execRet_cases s <;> exact ⟨_, h⟩
  | call nnn => obtain ⟨-, h⟩ | ⟨u, -, h⟩ := execCall_cases nnn s <;> exact ⟨_, h⟩
  | ldVxK x => obtain ⟨-, h⟩ | ⟨k, -, h⟩ := execLdVxK_cases x s <;> exact ⟨_, h⟩
  | _ => exact ⟨_, rfl⟩

/-- Settles O44: a halted TICK, a no-op and every instruction answer a next state. -/
theorem everyTickAnswers : Obligations.EveryTickAnswers := by
  intro s
  unfold step
  split
  · split
    · exact exec_answers _ s
    · exact ⟨_, rfl⟩
  · exact ⟨_, rfl⟩

end Sys2Proof.Machine
end

section
/-! SUPPORT. What an instruction may write: the table of parts (O46) and of registers (O47). -/

namespace Sys2Proof.Machine

theorem execRet_unchangedBut {s t : State} (h : execRet s = .next t) : unchangedBut [.pc, .sp, .fault] s t := by
  obtain ⟨-, hret⟩ | ⟨v, u, hpop, hret⟩ := execRet_cases s <;> cases hret.symm.trans h
  · exact unchangedBut_mono (by decide) (unchangedBut_raise s _)
  · exact unchangedBut_mono (by decide) <| unchangedBut_append
      (unchangedBut_append (unchangedBut_advance s) (unchangedBut_pop hpop)) (unchangedBut_setPc u _)

theorem execCall_unchangedBut {nnn : Addr} {s t : State} (h : execCall nnn s = .next t) :
    unchangedBut [.pc, .sp, .stack, .fault] s t := by
  obtain ⟨-, hcall⟩ | ⟨u, hpush, hcall⟩ := execCall_cases nnn s <;> cases hcall.symm.trans h
  · exact unchangedBut_mono (by decide) (unchangedBut_raise s _)
  · exact unchangedBut_mono (by decide) <| unchangedBut_append
      (unchangedBut_append (unchangedBut_advance s) (unchangedBut_push hpush)) (unchangedBut_setPc u _)

theorem execLdVxK_unchangedBut {x : Nibble} {s t : State} (h : execLdVxK x s = .next t) :
    unchangedBut [.pc, .regs] s t := by
  obtain ⟨-, hk⟩ | ⟨k, -, hk⟩ := execLdVxK_cases x s <;> cases hk.symm.trans h
  · exact unchangedBut_refl _ s
  · exact unchangedBut_append (unchangedBut_advance s) (unchangedBut_setReg _ x _)

/-- R27, R30, R37: an instruction writes no part outside its row of `partsOf`. Each case is the chain of updates its meaning
makes, advance first (R71). -/
theorem exec_unchangedBut_partsOf {i : Instr} {s t : State} (h : exec i s = .next t) :
    unchangedBut (partsOf i) s t := by
  cases i with
  | sys => cases h; exact unchangedBut_advance s
  | jp | jpV0 => cases h; exact unchangedBut_trans (unchangedBut_advance s) (unchangedBut_setPc _ _)
  | seByte | sneByte | seReg | sneReg | skp | sknp =>
    cases h; exact unchangedBut_trans (unchangedBut_advance s) (unchangedBut_skipIf _ _)
  | ldByte | addByte | ldReg | orReg | andReg | xorReg | ldVxDT =>
    cases h; exact unchangedBut_append (unchangedBut_advance s) (unchangedBut_setReg _ _ _)
  | addReg | subReg | shr | subnReg | shl =>
    cases h; exact unchangedBut_append (unchangedBut_advance s) (unchangedBut_setRegAndFlag _ _ _ _)
  | rnd =>
    cases h
    exact unchangedBut_mono (by simp [partsOf]) <| unchangedBut_append
      (unchangedBut_append (unchangedBut_advance s) (unchangedBut_drawn _)) (unchangedBut_setReg _ _ _)
  | ldI | addIVx | ldFVx => cases h; exact unchangedBut_append (unchangedBut_advance s) (unchangedBut_setI _ _)
  | ldDTVx => cases h; exact unchangedBut_append (unchangedBut_advance s) (unchangedBut_setDT _ _)
  | ldSTVx => cases h; exact unchangedBut_append (unchangedBut_advance s) (unchangedBut_setST _ _)
  | cls => cases h; exact unchangedBut_append (unchangedBut_advance s) (unchangedBut_setFb _ _)
  | drw =>
    cases h
    exact unchangedBut_mono (by simp [partsOf]) <| unchangedBut_append
      (unchangedBut_append (unchangedBut_advance s) (unchangedBut_setFb _ _)) (unchangedBut_setVF _ _)
  | ldBVx | storeRegs => cases h; exact unchangedBut_advance_writeBytes s _ _
  | loadRegs => cases h; exact unchangedBut_append (unchangedBut_advance s) (unchangedBut_loadedRegs _ _)
  | ret => exact execRet_unchangedBut h
  | call => exact execCall_unchangedBut h
  | ldVxK => exact execLdVxK_unchangedBut h

/-- Settles O46. -/
theorem partsWrittenOnlyAsTabled : Obligations.PartsWrittenOnlyAsTabled :=
  fun _ _ _ h => exec_unchangedBut_partsOf h

/-! ### Registers -/

theorem eq_of_reg_setReg_ne {s : State} {x r : Nibble} {v : Byte} (h : (s.setReg x v).reg r ≠ s.reg r) : r = x := by
  by_contra hr
  exact h (by rw [reg_setReg, if_neg hr])

theorem eq_of_reg_setRegAndFlag_ne {s : State} {x r : Nibble} {v f : Byte}
    (h : (s.setRegAndFlag x v f).reg r ≠ s.reg r) : r = x ∨ r = 0xF#4 := by
  by_contra hr
  rw [not_or] at hr
  exact h (by rw [reg_setRegAndFlag, if_neg hr.2, if_neg hr.1])

theorem toNat_lt_of_reg_loadedRegs_ne {s : State} {n : Nat} (hn : n ≤ 16) {r : Nibble}
    (h : (loadedRegs s n).reg r ≠ s.reg r) : r.toNat < n := by
  by_contra hr
  exact h (by rw [(loadedRegs_spec s n hn).1, if_neg hr])

theorem reg_eq_of_regs_notMem_partsOf {i : Instr} {s t : State} (h : exec i s = .next t)
    (hi : Part.regs ∉ partsOf i) (r : Nibble) : t.reg r = s.reg r :=
  exec_unchangedBut_partsOf h .regs hi r

/-- A register that an instruction changes is one of its row of `mayWriteReg`: by the kind of write its meaning ends in,
where it writes registers at all. -/
theorem mayWriteReg_of_exec_reg_ne {i : Instr} {s t : State} {r : Nibble} (h : exec i s = .next t)
    (hr : t.reg r ≠ s.reg r) : mayWriteReg r i = true := by
  cases i with
  | ldByte | addByte | ldReg | orReg | andReg | xorReg | ldVxDT | rnd =>
    cases h; exact beq_iff_eq.2 (eq_of_reg_setReg_ne hr)
  | addReg | subReg | shr | subnReg | shl =>
    cases h; simpa [mayWriteReg] using eq_of_reg_setRegAndFlag_ne hr
  | drw => cases h; exact beq_iff_eq.2 (eq_of_reg_setReg_ne hr)
  | ldVxK x =>
    obtain ⟨-, hk⟩ | ⟨k, -, hk⟩ := execLdVxK_cases x s <;> cases hk.symm.trans h
    · exact absurd rfl hr
    · exact beq_iff_eq.2 (eq_of_reg_setReg_ne hr)
  | loadRegs x =>
    cases h
    have := toNat_lt_of_reg_loadedRegs_ne (s := s.advance) x.isLt hr
    exact decide_eq_true (Nat.le_of_lt_succ this)
  | _ => exact absurd (reg_eq_of_regs_notMem_partsOf h (by simp [partsOf]) r) hr

/-- Settles O47. -/
theorem regsWrittenOnlyAsTabled : Obligations.RegsWrittenOnlyAsTabled :=
  fun _ _ _ _ h hr => mayWriteReg_of_exec_reg_ne h hr

end Sys2Proof.Machine
end

section
/-! SUPPORT. The invariant of reachable states (R28): each update keeps it, so each instruction, each TICK (O49) and each
event do. -/

namespace Sys2Proof.Machine

/-! ### Each update keeps the invariant -/

section
variable {s t : State}

/-- The invariant speaks of the pc, the call stack and memory only. -/
theorem State.Inv.of_eq (hs : s.Inv) (hpc : t.pc = s.pc) (hsp : t.sp = s.sp) (hstack : t.stack = s.stack)
    (hmem : t.mem = s.mem) : t.Inv := by
  unfold State.Inv
  rw [hpc, hsp, hstack, hmem]
  exact hs

/-- Every pc write is reduced mod 4096 (R13). -/
theorem State.Inv.setPc (hs : s.Inv) (n : Nat) : (s.setPc n).Inv := by
  obtain ⟨-, hactive, hmem⟩ := hs
  exact ⟨by rw [toNat_setPc]; omega, hactive, hmem⟩

theorem State.Inv.advance (hs : s.Inv) : s.advance.Inv := hs.setPc _

theorem State.Inv.skipIf (hs : s.Inv) (c : Bool) : (s.skipIf c).Inv := by
  cases c
  · exact hs
  · exact hs.advance

theorem State.Inv.setReg (hs : s.Inv) (x : Nibble) (v : Byte) : (s.setReg x v).Inv := hs.of_eq rfl rfl rfl rfl

theorem State.Inv.raise (hs : s.Inv) (c : FaultLatch) : (s.raise c).Inv := hs.of_eq rfl rfl rfl rfl

theorem State.Inv.writeBytes (hs : s.Inv) (a : Nat) (bs : List Byte) : (s.writeBytes a bs).Inv := by
  obtain ⟨hpc, hactive, hmem⟩ := hs
  rw [State.Inv, writeBytes_pc, writeBytes_sp, writeBytes_stack]
  exact ⟨hpc, hactive, wf_writeBytes a bs hmem⟩

theorem State.Inv.loadedRegs (hs : s.Inv) (n : Nat) : (loadedRegs s n).Inv := by
  induction n with
  | zero => exact hs
  | succ n ih => rw [loadedRegs_succ]; exact ih.setReg _ _

/-- A push below 4096 adds one active entry, which is below 4096. -/
theorem State.Inv.push (hs : s.Inv) {v : Word} (hv : v.toNat < 4096) (h : s.push v = some t) : t.Inv := by
  obtain ⟨hpc, hactive, hmem⟩ := hs
  obtain ⟨-, hnone⟩ | ⟨hlt, hsome⟩ := push_cases s v
  · rw [hnone] at h; cases h
  · rw [hsome] at h; cases h
    refine ⟨hpc, fun k hk => ?_, hmem⟩
    by_cases hnew : s.sp.val = k.val
    · simpa [hnew] using hv
    · have hold : k.val < s.sp.val := by simp at hk; omega
      simpa [Vector.getElem_set, hnew] using hactive k hold

/-- A pop leaves fewer active entries. -/
theorem State.Inv.pop (hs : s.Inv) {v : Word} (h : s.pop = some (v, t)) : t.Inv := by
  obtain ⟨hpc, hactive, hmem⟩ := hs
  obtain ⟨-, hnone⟩ | ⟨n, hn, hsome⟩ := pop_cases s
  · rw [hnone] at h; cases h
  · rw [hsome] at h; cases h
    exact ⟨hpc, fun k hk => hactive k (by simp at hk; omega), hmem⟩

/-! ### Instructions and TICKs -/

theorem execRet_keeps_inv (hs : s.Inv) (h : execRet s = .next t) : t.Inv := by
  obtain ⟨-, hret⟩ | ⟨v, u, hpop, hret⟩ := execRet_cases s <;> cases hret.symm.trans h
  · exact hs.raise _
  · exact (hs.advance.pop hpop).setPc _

/-- What CALL pushes is the advanced pc, which is below 4096. -/
theorem execCall_keeps_inv {nnn : Addr} (hs : s.Inv) (h : execCall nnn s = .next t) : t.Inv := by
  obtain ⟨-, hcall⟩ | ⟨u, hpush, hcall⟩ := execCall_cases nnn s <;> cases hcall.symm.trans h
  · exact hs.raise _
  · have hpc : s.advance.pc.toNat < 4096 := hs.advance.1
    exact (hs.advance.push hpc hpush).setPc _

theorem execLdVxK_keeps_inv {x : Nibble} (hs : s.Inv) (h : execLdVxK x s = .next t) : t.Inv := by
  obtain ⟨-, hk⟩ | ⟨k, -, hk⟩ := execLdVxK_cases x s <;> cases hk.symm.trans h
  · exact hs
  · exact hs.advance.setReg x _

theorem exec_keeps_inv {i : Instr} (hs : s.Inv) (h : exec i s = .next t) : t.Inv := by
  cases i with
  | jp | jpV0 => cases h; exact hs.advance.setPc _
  | seByte | sneByte | seReg | sneReg | skp | sknp => cases h; exact hs.advance.skipIf _
  | ret => exact execRet_keeps_inv hs h
  | call => exact execCall_keeps_inv hs h
  | ldVxK => exact execLdVxK_keeps_inv hs h
  | ldBVx | storeRegs => cases h; exact hs.advance.writeBytes _ _
  | loadRegs => cases h; exact hs.advance.loadedRegs _
  | _ => cases h; exact hs.advance.of_eq rfl rfl rfl rfl

theorem step_keeps_inv (hs : s.Inv) (h : step s = .next t) : t.Inv := by
  obtain ⟨-, rfl⟩ | ⟨-, i, -, hexec⟩ | ⟨-, -, rfl⟩ := step_cases h
  · exact hs
  · exact exec_keeps_inv hs hexec
  · exact hs.advance

end

/-- Settles O49. -/
theorem stepKeepsInv : Obligations.StepKeepsInv := fun _ _ hs h => step_keeps_inv hs h

end Sys2Proof.Machine
end

section
/-! SUPPORT. The reset state (O50, O53), and what holds along every sequence of events (O51, O52). -/

namespace Sys2Proof.Machine

/-! ### The reset state (R26) -/

theorem reset_inv : State.reset.Inv := by
  refine ⟨by decide, fun k hk => ?_, wf_reset⟩
  exact absurd hk (Nat.not_lt_zero _)

/-- Settles O50. -/
theorem resetHasInv : Obligations.ResetHasInv := reset_inv

theorem reset_reg (r : Nibble) : State.reset.reg r = 0x00#8 := Vector.getElem_replicate _

theorem reset_stack (k : Fin 16) : State.reset.stack[k] = 0x0000#16 := Vector.getElem_replicate _

theorem reset_key (k : Nibble) : State.reset.key k = false := Vector.getElem_replicate _

theorem reset_readByte (a : Nat) : State.reset.readByte a = 0x00#8 := rfl

theorem reset_pixel (x y : Nat) : State.reset.pixel x y = false := get_clear x y

/-- Settles O53. -/
theorem resetValues : Obligations.ResetValues :=
  ⟨reset_reg, rfl, rfl, rfl, reset_stack, reset_readByte, reset_pixel, reset_key, rfl, rfl, rfl⟩

/-! ### Events -/

theorem eq_of_hostLoad {bytes : List Byte} {s t : State} (h : hostLoad bytes s = .next t) :
    t = s.writeBytes Config.progBase bytes := by
  unfold hostLoad at h
  split at h <;> cases h
  rfl

theorem eq_of_hostKeypress {index : Nat} {pressed : Bool} {s t : State} (h : hostKeypress index pressed s = .next t) :
    t = s.setKey (BitVec.ofNat 4 index) pressed := by
  unfold hostKeypress at h
  split at h <;> cases h
  rfl

/-- An event that is not refused takes the run to its next state; a refused one leaves the state (R126, R128). -/
theorem afterEvent_cases (s : State) (e : Event) : applyEvent e s = .next (afterEvent s e) ∨ afterEvent s e = s := by
  unfold afterEvent
  split
  · next t h => exact .inl h
  · exact .inr rfl
  · exact .inr rfl

/-- What every event of a run keeps holds at its end: the induction over runs, done once. -/
theorem runEvents_keeps {P : State → Prop} {es : List Event}
    (hkeep : ∀ e ∈ es, ∀ s t, P s → applyEvent e s = .next t → P t) {s : State} (hs : P s) : P (runEvents es s) := by
  induction es generalizing s with
  | nil => exact hs
  | cons e es ih =>
    have hafter : P (afterEvent s e) := by
      obtain h | h := afterEvent_cases s e
      · exact hkeep e List.mem_cons_self s _ hs h
      · rwa [h]
    exact ih (fun e he => hkeep e (List.mem_cons_of_mem _ he)) hafter

/-! ### The invariant along a run (R28) -/

theorem applyEvent_keeps_inv {e : Event} {s t : State} (hs : s.Inv) (h : applyEvent e s = .next t) : t.Inv := by
  cases e with
  | reset => cases h; exact reset_inv.of_eq rfl rfl rfl rfl
  | load bytes => rw [eq_of_hostLoad h]; exact hs.writeBytes _ bytes
  | keypress index pressed => rw [eq_of_hostKeypress h]; exact hs.of_eq rfl rfl rfl rfl
  | tick => exact step_keeps_inv hs h
  | advanceTimers => cases h; exact hs.of_eq rfl rfl rfl rfl

/-- Settles O51. -/
theorem eventsKeepInv : Obligations.EventsKeepInv :=
  fun _ _ hs => runEvents_keeps (fun _ _ _ _ hu h => applyEvent_keeps_inv hu h) hs

/-! ### The halted condition along a run (R75, R150) -/

theorem step_of_halted {s : State} (h : s.halted) : step s = .next s := if_neg h

/-- On a halted CORE every event but RESET leaves all but the timers, the keys and memory. -/
theorem applyEvent_unchangedBut_of_halted {e : Event} {s t : State} (hs : s.halted) (he : e ≠ .reset)
    (h : applyEvent e s = .next t) : unchangedBut [.dt, .st, .keys, .mem] s t := by
  cases e with
  | reset => exact absurd rfl he
  | load bytes => rw [eq_of_hostLoad h]; exact unchangedBut_mono (by decide) (unchangedBut_writeBytes s _ bytes)
  | keypress index pressed =>
    rw [eq_of_hostKeypress h]
    exact unchangedBut_mono (by decide) (unchangedBut_setKey s _ pressed)
  | tick =>
    cases (step_of_halted hs).symm.trans h
    exact unchangedBut_refl _ s
  | advanceTimers =>
    cases h
    exact unchangedBut_mono (by decide) (unchangedBut_append (unchangedBut_setDT s _) (unchangedBut_setST _ _))

/-- Settles O52: the frame itself is what the run keeps, and the latch is in it, so the CORE stays halted. -/
theorem haltedUntilReset : Obligations.HaltedUntilReset := by
  intro es s hs hreset
  refine runEvents_keeps (P := unchangedBut [.dt, .st, .keys, .mem] s) (fun e he u v hu h => ?_)
    (unchangedBut_refl _ s)
  have hfault : u.fault = s.fault := hu .fault (by decide)
  have hhalted : u.halted := fun hnone => hs (hfault.symm.trans hnone)
  have hne : e ≠ .reset := fun heq => hreset (heq ▸ he)
  exact unchangedBut_trans hu (applyEvent_unchangedBut_of_halted hhalted hne h)

end Sys2Proof.Machine
end

section
/-! SUPPORT. What memory holds after LD [I], Vx (R109), and that the next fetch reads it (O27). -/

namespace Sys2Proof.Machine

@[simp] theorem length_storedRegs (s : State) (x : Nibble) : (storedRegs s x).length = regCount x := by
  simp [storedRegs]

@[simp] theorem getElem_storedRegs (s : State) (x : Nibble) (k : Nat) (hk : k < (storedRegs s x).length) :
    (storedRegs s x)[k] = s.reg (regOf k) := by
  simp [storedRegs]

/-- Register `k` of V0 to Vx is read back at the `k`-th address from `I` on, whatever state they were stored over (R109). -/
theorem readByte_writeBytes_storedRegs (t s : State) {x : Nibble} {k b : Nat} (hk : k ≤ x.toNat)
    (hb : b % 4096 = indexAddr s k % 4096) :
    (t.writeBytes (indexAddr s 0) (storedRegs s x)).readByte b = s.reg (regOf k) := by
  have hx := x.isLt
  have hlen : (storedRegs s x).length ≤ 4096 := by rw [length_storedRegs, regCount]; omega
  have hmem : k < (storedRegs s x).length := by rw [length_storedRegs, regCount]; omega
  rw [(readByte_writeBytes t (indexAddr s 0) _ hlen b).2 k hmem hb, getElem_storedRegs]

/-- Settles O27: the two bytes at the advanced pc are the first two stored, and the high one comes first (R34). -/
theorem storedCodeIsFetchedNext : Obligations.StoredCodeIsFetchedNext := by
  intro x s hx hi
  refine ⟨s.advance.writeBytes (indexAddr s 0) (storedRegs s x), rfl, ?_⟩
  have hpc : s.advance.pc.toNat = indexAddr s 0 % 4096 := (toNat_advance s).trans hi.symm
  have hlow : (s.advance.pc.toNat + 1) % 4096 = indexAddr s 1 % 4096 := by
    rw [hpc, Nat.mod_add_mod]; rfl
  rw [State.fetch, writeBytes_pc,
    readByte_writeBytes_storedRegs s.advance s (k := 0) (Nat.zero_le _) (by rw [hpc, Nat.mod_mod]),
    readByte_writeBytes_storedRegs s.advance s hx hlow]
  rfl

end Sys2Proof.Machine
end

section
/-! SUPPORT. The decoder and the encoder undo each other (O36, O37): a word is decoded by its family nibble, and each
family's instructions are read back from the fields they were written to. -/

namespace Sys2Proof

/-! ### A word whose fixed fields are known is the word of its other fields (R52) -/

section
variable {w : Word} {f n : Nibble} {nn : Byte} {nnn : Addr}

theorem fmtAddr_of_fieldF (hF : fieldF w = f) : fmtAddr f (fieldNNN w) = w :=
  hF ▸ fmtAddr_fields w

theorem fmtAddr_of_fieldNNN (hF : fieldF w = f) (hNNN : fieldNNN w = nnn) : fmtAddr f nnn = w :=
  hNNN ▸ fmtAddr_of_fieldF hF

theorem fmtRegImm_of_fieldF (hF : fieldF w = f) : fmtRegImm f (fieldX w) (fieldNN w) = w :=
  hF ▸ fmtRegImm_fields w

theorem fmtRegImm_of_fieldNN (hF : fieldF w = f) (hNN : fieldNN w = nn) : fmtRegImm f (fieldX w) nn = w :=
  hNN ▸ fmtRegImm_of_fieldF hF

theorem fmtRegReg_of_fieldF (hF : fieldF w = f) : fmtRegReg f (fieldX w) (fieldY w) (fieldN w) = w :=
  hF ▸ fmtRegReg_fields w

theorem fmtRegReg_of_fieldN (hF : fieldF w = f) (hN : fieldN w = n) : fmtRegReg f (fieldX w) (fieldY w) n = w :=
  hN ▸ fmtRegReg_of_fieldF hF

end

/-! ### Decode of encode -/

/-- Words of one family are told apart by their NNN. -/
theorem eq_iff_fieldNNN_eq {w v : Word} (hF : fieldF w = fieldF v) : w = v ↔ fieldNNN w = fieldNNN v :=
  ⟨congrArg fieldNNN, fun h => by rw [← fmtAddr_of_fieldF hF, h, fmtAddr_fields]⟩

/-- In family 0, CLS, RET and SYS are told apart by NNN (R54). -/
theorem decodeFamily0_eq {w : Word} (hF : fieldF w = 0x0#4) :
    decodeFamily0 w =
      if fieldNNN w = 0x0E0#12 then .cls else if fieldNNN w = 0x0EE#12 then .ret else .sys (fieldNNN w) := by
  have hcls : w = 0x00E0#16 ↔ fieldNNN w = 0x0E0#12 := eq_iff_fieldNNN_eq hF
  have hret : w = 0x00EE#16 ↔ fieldNNN w = 0x0EE#12 := eq_iff_fieldNNN_eq hF
  simp only [decodeFamily0, hcls, hret]

theorem wf_sys_iff (nnn : Addr) : (Instr.sys nnn).wf = true ↔ nnn ≠ 0x0E0#12 ∧ nnn ≠ 0x0EE#12 := by
  simp [Instr.wf]

theorem decodeFamily0_fmtAddr_of_wf {nnn : Addr} (h : (Instr.sys nnn).wf = true) :
    decodeFamily0 (fmtAddr 0x0#4 nnn) = .sys nnn := by
  obtain ⟨hcls, hret⟩ := (wf_sys_iff nnn).1 h
  rw [decodeFamily0_eq (fieldF_fmtAddr _ _), fieldNNN_fmtAddr, if_neg hcls, if_neg hret]

/-- Family 0 holds no unrecognized word (R54, R59). -/
theorem decode_fmtAddr_zero (nnn : Addr) :
    decode (fmtAddr 0x0#4 nnn) = .ok (decodeFamily0 (fmtAddr 0x0#4 nnn)) := by
  simp [decode]

/-- R52, R54, R55: an instruction is read back from its word, by the fields that its format writes. -/
theorem decode_encode {i : Instr} (h : i.wf = true) : decode (encode i) = .ok i := by
  cases i with
  | sys nnn => rw [encode, decode_fmtAddr_zero, decodeFamily0_fmtAddr_of_wf h]
  | cls | ret => rfl
  | jp | call | ldI | jpV0 => simp [encode, decode]
  | seByte | sneByte | ldByte | addByte | rnd => simp [encode, decode]
  | drw => simp [encode, decode]
  | seReg => simp [encode, decode, decodeFamily5]
  | ldReg | orReg | andReg | xorReg | addReg | subReg | shr | subnReg | shl => simp [encode, decode, decodeFamily8]
  | sneReg => simp [encode, decode, decodeFamily9]
  | skp | sknp => simp [encode, decode, decodeFamilyE]
  | ldVxDT | ldVxK | ldDTVx | ldSTVx | addIVx | ldFVx | ldBVx | storeRegs | loadRegs =>
    simp [encode, decode, decodeFamilyF]

/-- Settles O36. -/
theorem decodeOfEncode : Obligations.DecodeOfEncode := fun _ h => decode_encode h

/-- Settles O35: each of the six words is the word of its instruction. -/
theorem sampleWordsDecode : Obligations.SampleWordsDecode :=
  ⟨decode_encode (i := .jp 0xABC#12) rfl, decode_encode (i := .drw 0x5#4 0xA#4 0x7#4) rfl,
    decode_encode (i := .addReg 0xA#4 0xB#4) rfl, decode_encode (i := .loadRegs 0x2#4) rfl,
    decode_encode (i := .sknp 0x5#4) rfl, decode_encode (i := .sys 0x0E1#12) rfl⟩

/-! ### Encode of decode, family by family -/

section
variable {w : Word} {i : Instr}

theorem decodeFamily0_exact (hF : fieldF w = 0x0#4) :
    (decodeFamily0 w).wf = true ∧ encode (decodeFamily0 w) = w := by
  rw [decodeFamily0_eq hF]
  split
  · next h => exact ⟨rfl, fmtAddr_of_fieldNNN hF h⟩
  · next hcls =>
    split
    · next h => exact ⟨rfl, fmtAddr_of_fieldNNN hF h⟩
    · next hret => exact ⟨(wf_sys_iff _).2 ⟨hcls, hret⟩, fmtAddr_of_fieldF hF⟩

theorem decodeFamily5_exact (hF : fieldF w = 0x5#4) (h : decodeFamily5 w = .ok i) :
    i.wf = true ∧ encode i = w := by
  unfold decodeFamily5 at h
  split at h <;> cases h
  exact ⟨rfl, fmtRegReg_of_fieldN hF ‹_›⟩

theorem decodeFamily8_exact (hF : fieldF w = 0x8#4) (h : decodeFamily8 w = .ok i) :
    i.wf = true ∧ encode i = w := by
  unfold decodeFamily8 at h
  split at h <;> cases h
  all_goals exact ⟨rfl, fmtRegReg_of_fieldN hF ‹_›⟩

theorem decodeFamily9_exact (hF : fieldF w = 0x9#4) (h : decodeFamily9 w = .ok i) :
    i.wf = true ∧ encode i = w := by
  unfold decodeFamily9 at h
  split at h <;> cases h
  exact ⟨rfl, fmtRegReg_of_fieldN hF ‹_›⟩

theorem decodeFamilyE_exact (hF : fieldF w = 0xE#4) (h : decodeFamilyE w = .ok i) :
    i.wf = true ∧ encode i = w := by
  unfold decodeFamilyE at h
  split at h <;> cases h
  all_goals exact ⟨rfl, fmtRegImm_of_fieldNN hF ‹_›⟩

theorem decodeFamilyF_exact (hF : fieldF w = 0xF#4) (h : decodeFamilyF w = .ok i) :
    i.wf = true ∧ encode i = w := by
  unfold decodeFamilyF at h
  split at h <;> cases h
  all_goals exact ⟨rfl, fmtRegImm_of_fieldNN hF ‹_›⟩

end

/-! ### Inversion of `decode`: a family that is recognized whole, or one of the five of R59 -/

/-- The families with unrecognized words (R59). -/
def partialFamilies : List Nibble := [0x5#4, 0x8#4, 0x9#4, 0xE#4, 0xF#4]

/-- What the decoder does with a word, by its family nibble (R54). -/
theorem decode_cases (w : Word) :
    (fieldF w ∉ partialFamilies ∧ ∃ i, decode w = .ok i ∧ i.wf = true ∧ encode i = w) ∨
    (fieldF w = 0x5#4 ∧ decode w = decodeFamily5 w) ∨
    (fieldF w = 0x8#4 ∧ decode w = decodeFamily8 w) ∨
    (fieldF w = 0x9#4 ∧ decode w = decodeFamily9 w) ∨
    (fieldF w = 0xE#4 ∧ decode w = decodeFamilyE w) ∨
    (fieldF w = 0xF#4 ∧ decode w = decodeFamilyF w) := by
  unfold decode
  split
  case h_1 hF => exact .inl ⟨by simp [hF, partialFamilies], _, rfl, decodeFamily0_exact hF⟩
  case h_2 hF | h_3 hF | h_11 hF | h_12 hF =>
    exact .inl ⟨by simp [hF, partialFamilies], _, rfl, rfl, fmtAddr_of_fieldF hF⟩
  case h_4 hF | h_5 hF | h_7 hF | h_8 hF | h_13 hF =>
    exact .inl ⟨by simp [hF, partialFamilies], _, rfl, rfl, fmtRegImm_of_fieldF hF⟩
  case h_14 hF => exact .inl ⟨by simp [hF, partialFamilies], _, rfl, rfl, fmtRegReg_of_fieldF hF⟩
  case h_6 hF | h_9 hF | h_10 hF | h_15 hF => simp [hF]
  case h_16 =>
    have hF : fieldF w = 0xF#4 := by
      generalize fieldF w = f at *
      revert f
      decide
    simp [hF]

/-- R54, R55: what a word decodes to is well formed, and the word is its word. -/
theorem decode_exact {w : Word} {i : Instr} (h : decode w = .ok i) : i.wf = true ∧ encode i = w := by
  obtain ⟨-, j, hj, hexact⟩ | ⟨hF, heq⟩ | ⟨hF, heq⟩ | ⟨hF, heq⟩ | ⟨hF, heq⟩ | ⟨hF, heq⟩ := decode_cases w
  · cases hj.symm.trans h; exact hexact
  · exact decodeFamily5_exact hF (heq ▸ h)
  · exact decodeFamily8_exact hF (heq ▸ h)
  · exact decodeFamily9_exact hF (heq ▸ h)
  · exact decodeFamilyE_exact hF (heq ▸ h)
  · exact decodeFamilyF_exact hF (heq ▸ h)

/-- Settles O37. -/
theorem decodeIsExact : Obligations.DecodeIsExact := fun _ _ h => decode_exact h

end Sys2Proof
end

section
/-! SUPPORT. The words that decode to nothing, by family (R59, O39). -/

namespace Sys2Proof

/-! ### Fields as numbers (R51) -/

theorem toNat_fieldF (w : Word) : (fieldF w).toNat = w.toNat / 4096 := by
  have := w.isLt
  simp [fieldF, Nat.shiftRight_eq_div_pow]; omega

theorem toNat_fieldN (w : Word) : (fieldN w).toNat = w.toNat % 16 := by simp [fieldN]

theorem toNat_fieldNN (w : Word) : (fieldNN w).toNat = w.toNat % 256 := by simp [fieldNN]

/-! ### The words each family rejects -/

theorem decodeFamily5_error_iff (w : Word) : (∃ r, decodeFamily5 w = .error r) ↔ (fieldN w).toNat ≠ 0 := by
  unfold decodeFamily5
  split
  · next hN => simp [hN]
  · next hN => simpa [← BitVec.toNat_inj] using hN

theorem decodeFamily9_error_iff (w : Word) : (∃ r, decodeFamily9 w = .error r) ↔ (fieldN w).toNat ≠ 0 := by
  unfold decodeFamily9
  split
  · next hN => simp [hN]
  · next hN => simpa [← BitVec.toNat_inj] using hN

theorem decodeFamily8_error_iff (w : Word) :
    (∃ r, decodeFamily8 w = .error r) ↔ (fieldN w).toNat ∈ [8, 9, 10, 11, 12, 13, 15] := by
  unfold decodeFamily8
  generalize fieldN w = n
  split
  case h_10 =>
    refine ⟨fun _ => ?_, fun _ => ⟨_, rfl⟩⟩
    revert n
    decide
  all_goals simp

theorem decodeFamilyE_error_iff (w : Word) :
    (∃ r, decodeFamilyE w = .error r) ↔ (fieldNN w).toNat ∉ [0x9E, 0xA1] := by
  unfold decodeFamilyE
  split
  case h_3 h9E hA1 => simpa [← BitVec.toNat_inj] using And.intro h9E hA1
  all_goals next hNN => simp [hNN]

theorem decodeFamilyF_error_iff (w : Word) :
    (∃ r, decodeFamilyF w = .error r) ↔
      (fieldNN w).toNat ∉ [0x07, 0x0A, 0x15, 0x18, 0x1E, 0x29, 0x33, 0x55, 0x65] := by
  unfold decodeFamilyF
  split
  case h_10 =>
    simp_all [← BitVec.toNat_inj]
  all_goals next hNN => simp [hNN]

/-- Settles O39. -/
theorem unrecognizedSpaceIsExact : Obligations.UnrecognizedSpaceIsExact := by
  intro w
  rw [← toNat_fieldF, ← toNat_fieldN, ← toNat_fieldNN]
  obtain ⟨hF, i, hi, -⟩ | ⟨hF, heq⟩ | ⟨hF, heq⟩ | ⟨hF, heq⟩ | ⟨hF, heq⟩ | ⟨hF, heq⟩ := decode_cases w
  · rw [hi]
    have hnum : (fieldF w).toNat ≠ 5 ∧ (fieldF w).toNat ≠ 8 ∧ (fieldF w).toNat ≠ 9 ∧ (fieldF w).toNat ≠ 14 ∧
        (fieldF w).toNat ≠ 15 := by
      simpa [partialFamilies, ← BitVec.toNat_inj] using hF
    simp [hnum]
  · rw [heq, decodeFamily5_error_iff, hF]; simp
  · rw [heq, decodeFamily8_error_iff, hF]; simp
  · rw [heq, decodeFamily9_error_iff, hF]; simp
  · rw [heq, decodeFamilyE_error_iff, hF]; simp
  · rw [heq, decodeFamilyF_error_iff, hF]; simp

end Sys2Proof
end

section
/-! SUPPORT. The decoder agrees with the mask and match rows of the opcode table (R54, R55, O38). -/

namespace Sys2Proof

/-! ### An instruction matches its own row -/

theorem rowMatches_row_encode : ∀ i : Instr, rowMatches i.row (encode i) = true
  | .sys nnn => Laws.TableRow.sys nnn
  | .cls => Laws.TableRow.cls
  | .ret => Laws.TableRow.ret
  | .jp nnn => Laws.TableRow.jp nnn
  | .call nnn => Laws.TableRow.call nnn
  | .seByte x nn => Laws.TableRow.seByte x nn
  | .sneByte x nn => Laws.TableRow.sneByte x nn
  | .seReg x y => Laws.TableRow.seReg x y
  | .ldByte x nn => Laws.TableRow.ldByte x nn
  | .addByte x nn => Laws.TableRow.addByte x nn
  | .ldReg x y => Laws.TableRow.ldReg x y
  | .orReg x y => Laws.TableRow.orReg x y
  | .andReg x y => Laws.TableRow.andReg x y
  | .xorReg x y => Laws.TableRow.xorReg x y
  | .addReg x y => Laws.TableRow.addReg x y
  | .subReg x y => Laws.TableRow.subReg x y
  | .shr x y => Laws.TableRow.shr x y
  | .subnReg x y => Laws.TableRow.subnReg x y
  | .shl x y => Laws.TableRow.shl x y
  | .sneReg x y => Laws.TableRow.sneReg x y
  | .ldI nnn => Laws.TableRow.ldI nnn
  | .jpV0 nnn => Laws.TableRow.jpV0 nnn
  | .rnd x nn => Laws.TableRow.rnd x nn
  | .drw x y n => Laws.TableRow.drw x y n
  | .skp x => Laws.TableRow.skp x
  | .sknp x => Laws.TableRow.sknp x
  | .ldVxDT x => Laws.TableRow.ldVxDT x
  | .ldVxK x => Laws.TableRow.ldVxK x
  | .ldDTVx x => Laws.TableRow.ldDTVx x
  | .ldSTVx x => Laws.TableRow.ldSTVx x
  | .addIVx x => Laws.TableRow.addIVx x
  | .ldFVx x => Laws.TableRow.ldFVx x
  | .ldBVx x => Laws.TableRow.ldBVx x
  | .storeRegs x => Laws.TableRow.storeRegs x
  | .loadRegs x => Laws.TableRow.loadRegs x

theorem row_mem_opcodeTable (i : Instr) : i.row ∈ opcodeTable := by
  have hlt : i.rowIndex < opcodeTable.length := by
    cases i <;> exact Nat.le_of_ble_eq_true rfl
  rw [Instr.row, List.getD_eq_getElem _ _ hlt]
  exact List.getElem_mem hlt

/-- R54: a word matches the row of the instruction it decodes to. -/
theorem rowMatches_row_of_decode {w : Word} {i : Instr} (h : decode w = .ok i) : rowMatches i.row w = true := by
  obtain ⟨-, hw⟩ := decode_exact h
  exact hw ▸ rowMatches_row_encode i

/-! ### A word that matches a row is the word of an instruction of that row -/

section
variable {w : Word} {f n : Nibble} {nn : Byte}

theorem fieldF_of_rowMatches (h : rowMatches (0xF000#16, fmtAddr f 0) w = true) : fieldF w = f := by
  have hand : w &&& 0xF000#16 = fmtAddr f 0 := beq_iff_eq.1 h
  rw [← fmtAddr_fields w, Laws.TableRow.fmtAddr_and] at hand
  simpa using congrArg fieldF hand

theorem fmtAddr_of_rowMatches (h : rowMatches (0xF000#16, fmtAddr f 0) w = true) : fmtAddr f (fieldNNN w) = w :=
  fmtAddr_of_fieldF (fieldF_of_rowMatches h)

theorem fmtRegImm_of_rowMatches (h : rowMatches (0xF000#16, fmtAddr f 0) w = true) :
    fmtRegImm f (fieldX w) (fieldNN w) = w :=
  fmtRegImm_of_fieldF (fieldF_of_rowMatches h)

theorem fmtRegReg_of_rowMatches (h : rowMatches (0xF000#16, fmtAddr f 0) w = true) :
    fmtRegReg f (fieldX w) (fieldY w) (fieldN w) = w :=
  fmtRegReg_of_fieldF (fieldF_of_rowMatches h)

theorem fmtRegReg_of_rowMatches_low (h : rowMatches (0xF00F#16, fmtRegReg f 0 0 n) w = true) :
    fmtRegReg f (fieldX w) (fieldY w) n = w := by
  have hand : w &&& 0xF00F#16 = fmtRegReg f 0 0 n := beq_iff_eq.1 h
  rw [← fmtRegReg_fields w, Laws.TableRow.fmtRegReg_and_low] at hand
  exact fmtRegReg_of_fieldN (by simpa using congrArg fieldF hand) (by simpa using congrArg fieldN hand)

theorem fmtRegImm_of_rowMatches_low (h : rowMatches (0xF0FF#16, fmtRegImm f 0 nn) w = true) :
    fmtRegImm f (fieldX w) nn = w := by
  have hand : w &&& 0xF0FF#16 = fmtRegImm f 0 nn := beq_iff_eq.1 h
  rw [← fmtRegImm_fields w, Laws.TableRow.fmtRegImm_and_low] at hand
  exact fmtRegImm_of_fieldNN (by simpa using congrArg fieldF hand) (by simpa using congrArg fieldNN hand)

theorem eq_of_rowMatches {v : Word} (h : rowMatches (0xFFFF#16, v) w = true) : v = w := by
  have hand : w &&& BitVec.allOnes 16 = v := beq_iff_eq.1 h
  rw [← hand, BitVec.and_allOnes]

end

/-- Some instruction, well formed or not, has the word `w` and the row `row`. -/
def HasInstrOfRow (w : Word) (row : Word × Word) : Prop := ∃ i : Instr, encode i = w ∧ i.row = row

theorem hasInstrOfRow_of_mem_opcodeRowsA (w : Word) :
    ∀ row ∈ opcodeRowsA, rowMatches row w = true → HasInstrOfRow w row := by
  simp only [opcodeRowsA, List.forall_mem_cons]
  exact ⟨
    fun h => ⟨.sys _, fmtAddr_of_rowMatches h, rfl⟩,
    fun h => ⟨.cls, eq_of_rowMatches h, rfl⟩,
    fun h => ⟨.ret, eq_of_rowMatches h, rfl⟩,
    fun h => ⟨.jp _, fmtAddr_of_rowMatches h, rfl⟩,
    fun h => ⟨.call _, fmtAddr_of_rowMatches h, rfl⟩,
    fun h => ⟨.seByte _ _, fmtRegImm_of_rowMatches h, rfl⟩,
    fun h => ⟨.sneByte _ _, fmtRegImm_of_rowMatches h, rfl⟩,
    fun h => ⟨.seReg _ _, fmtRegReg_of_rowMatches_low h, rfl⟩,
    fun h => ⟨.ldByte _ _, fmtRegImm_of_rowMatches h, rfl⟩,
    fun h => ⟨.addByte _ _, fmtRegImm_of_rowMatches h, rfl⟩,
    List.forall_mem_nil _⟩

theorem hasInstrOfRow_of_mem_opcodeRowsB (w : Word) :
    ∀ row ∈ opcodeRowsB, rowMatches row w = true → HasInstrOfRow w row := by
  simp only [opcodeRowsB, List.forall_mem_cons]
  exact ⟨
    fun h => ⟨.ldReg _ _, fmtRegReg_of_rowMatches_low h, rfl⟩,
    fun h => ⟨.orReg _ _, fmtRegReg_of_rowMatches_low h, rfl⟩,
    fun h => ⟨.andReg _ _, fmtRegReg_of_rowMatches_low h, rfl⟩,
    fun h => ⟨.xorReg _ _, fmtRegReg_of_rowMatches_low h, rfl⟩,
    fun h => ⟨.addReg _ _, fmtRegReg_of_rowMatches_low h, rfl⟩,
    fun h => ⟨.subReg _ _, fmtRegReg_of_rowMatches_low h, rfl⟩,
    fun h => ⟨.shr _ _, fmtRegReg_of_rowMatches_low h, rfl⟩,
    fun h => ⟨.subnReg _ _, fmtRegReg_of_rowMatches_low h, rfl⟩,
    fun h => ⟨.shl _ _, fmtRegReg_of_rowMatches_low h, rfl⟩,
    fun h => ⟨.sneReg _ _, fmtRegReg_of_rowMatches_low h, rfl⟩,
    List.forall_mem_nil _⟩

theorem hasInstrOfRow_of_mem_opcodeRowsC (w : Word) :
    ∀ row ∈ opcodeRowsC, rowMatches row w = true → HasInstrOfRow w row := by
  simp only [opcodeRowsC, List.forall_mem_cons]
  exact ⟨
    fun h => ⟨.ldI _, fmtAddr_of_rowMatches h, rfl⟩,
    fun h => ⟨.jpV0 _, fmtAddr_of_rowMatches h, rfl⟩,
    fun h => ⟨.rnd _ _, fmtRegImm_of_rowMatches h, rfl⟩,
    fun h => ⟨.drw _ _ _, fmtRegReg_of_rowMatches h, rfl⟩,
    fun h => ⟨.skp _, fmtRegImm_of_rowMatches_low h, rfl⟩,
    fun h => ⟨.sknp _, fmtRegImm_of_rowMatches_low h, rfl⟩,
    fun h => ⟨.ldVxDT _, fmtRegImm_of_rowMatches_low h, rfl⟩,
    fun h => ⟨.ldVxK _, fmtRegImm_of_rowMatches_low h, rfl⟩,
    fun h => ⟨.ldDTVx _, fmtRegImm_of_rowMatches_low h, rfl⟩,
    fun h => ⟨.ldSTVx _, fmtRegImm_of_rowMatches_low h, rfl⟩,
    fun h => ⟨.addIVx _, fmtRegImm_of_rowMatches_low h, rfl⟩,
    fun h => ⟨.ldFVx _, fmtRegImm_of_rowMatches_low h, rfl⟩,
    fun h => ⟨.ldBVx _, fmtRegImm_of_rowMatches_low h, rfl⟩,
    fun h => ⟨.storeRegs _, fmtRegImm_of_rowMatches_low h, rfl⟩,
    fun h => ⟨.loadRegs _, fmtRegImm_of_rowMatches_low h, rfl⟩,
    List.forall_mem_nil _⟩

theorem hasInstrOfRow_of_rowMatches {w : Word} {row : Word × Word} (hrow : row ∈ opcodeTable)
    (h : rowMatches row w = true) : HasInstrOfRow w row := by
  obtain hAB | hC := List.mem_append.1 hrow
  · obtain hA | hB := List.mem_append.1 hAB
    · exact hasInstrOfRow_of_mem_opcodeRowsA w row hA h
    · exact hasInstrOfRow_of_mem_opcodeRowsB w row hB h
  · exact hasInstrOfRow_of_mem_opcodeRowsC w row hC h

/-! ### The rows a word matches, and what it decodes to (R54) -/

/-- The row of SYS, the only one that shares words with others. -/
def sysRow : Word × Word := (0xF000#16, 0x0000#16)

theorem row_sys (nnn : Addr) : (Instr.sys nnn).row = sysRow := rfl

theorem wf_of_row_ne_sysRow {i : Instr} (h : i.row ≠ sysRow) : i.wf = true := by
  cases i with
  | sys nnn => exact absurd (row_sys nnn) h
  | _ => rfl

/-- The word of an ill-formed SYS decodes too, to CLS or RET. -/
theorem exists_decode_encode (i : Instr) : ∃ j, decode (encode i) = .ok j := by
  cases i with
  | sys nnn => exact ⟨_, decode_fmtAddr_zero nnn⟩
  | _ => exact ⟨_, decode_encode rfl⟩

section
variable {w : Word} {row row' : Word × Word}

theorem exists_decode_of_rowMatches (hrow : row ∈ opcodeTable) (h : rowMatches row w = true) :
    ∃ j, decode w = .ok j := by
  obtain ⟨i, rfl, -⟩ := hasInstrOfRow_of_rowMatches hrow h
  exact exists_decode_encode i

/-- A row other than SYS's wins. -/
theorem exists_decode_of_row_ne_sysRow (hrow : row ∈ opcodeTable) (hne : row ≠ sysRow)
    (h : rowMatches row w = true) : ∃ i, decode w = .ok i ∧ i.row = row := by
  obtain ⟨i, rfl, rfl⟩ := hasInstrOfRow_of_rowMatches hrow h
  exact ⟨i, decode_encode (wf_of_row_ne_sysRow hne), rfl⟩

/-- Rows other than SYS's are disjoint: a word decodes to one instruction, which has one row. -/
theorem row_eq_of_rowMatches (hrow : row ∈ opcodeTable) (hrow' : row' ∈ opcodeTable) (hne : row ≠ sysRow)
    (hne' : row' ≠ sysRow) (h : rowMatches row w = true) (h' : rowMatches row' w = true) : row = row' := by
  obtain ⟨i, hi, rfl⟩ := exists_decode_of_row_ne_sysRow hrow hne h
  obtain ⟨j, hj, rfl⟩ := exists_decode_of_row_ne_sysRow hrow' hne' h'
  cases hi.symm.trans hj
  rfl

theorem decode_error_iff_rowMatches :
    (∃ r, decode w = .error r) ↔ ∀ row ∈ opcodeTable, rowMatches row w = false := by
  constructor
  · rintro ⟨r, hr⟩ row hrow
    by_contra h
    obtain ⟨j, hj⟩ := exists_decode_of_rowMatches hrow (Bool.eq_true_of_not_eq_false h)
    cases hr.symm.trans hj
  · intro hnone
    cases hd : decode w with
    | error r => exact ⟨r, rfl⟩
    | ok i =>
      have hmatch := rowMatches_row_of_decode hd
      rw [hnone i.row (row_mem_opcodeTable i)] at hmatch
      cases hmatch

end

/-- Settles O38. -/
theorem decodeFollowsTable : Obligations.DecodeFollowsTable := by
  intro w
  refine ⟨fun i => rowMatches_row_of_decode, decode_error_iff_rowMatches, fun row hrow row' hrow' hne h h' => ?_,
    fun row => exists_decode_of_row_ne_sysRow⟩
  by_contra hsys
  obtain ⟨hs, hs'⟩ := not_or.1 hsys
  exact hne (row_eq_of_rowMatches hrow hrow' hs hs' h h')

end Sys2Proof
end

section
/-! SUPPORT. A TICK that is not halted, by what the word at the pc decodes to (O40, O41). -/

namespace Sys2Proof.Machine

theorem step_of_decode_ok {s : State} {i : Instr} (hf : s.fault = .none) (h : decode s.fetch = .ok i) :
    step s = exec i s := by
  simp only [step, if_pos hf, h]

theorem step_of_decode_error {s : State} {r : Reject} (hf : s.fault = .none) (h : decode s.fetch = .error r) :
    step s = .next s.advance := by
  simp only [step, if_pos hf, h, execUnrecognized]

/-- Settles O40: the two bytes at the pc are the word that `step` fetches (R34, R71). -/
theorem stepRunsDecodedInstr : Obligations.StepRunsDecodedInstr := by
  intro s i hf hbytes
  have hdecode : decode s.fetch = .ok i := (decodeBytes_pair _ _ i).1 hbytes
  exact ⟨(decode_exact hdecode).1, step_of_decode_ok hf hdecode⟩

/-- Settles O41. -/
theorem unrecognizedIsNoOp : Obligations.UnrecognizedIsNoOp := fun s _ hf h =>
  ⟨s.advance, step_of_decode_error hf h, toNat_advance s, unchangedBut_advance s⟩

end Sys2Proof.Machine
end

section
/-! SUPPORT. What a TICK raises (O43), what it leaves alone (O45), the jump to itself (O48), and the events on a halted
CORE (O42). -/

namespace Sys2Proof.Machine

/-! ### Raising a fault (R77) -/

theorem fault_of_pop {s t : State} {v : Word} (h : s.pop = some (v, t)) : t.fault = s.fault :=
  unchangedBut_pop h .fault (by decide)

theorem fault_of_push {s t : State} {v : Word} (h : s.push v = some t) : t.fault = s.fault :=
  unchangedBut_push h .fault (by decide)

/-- Only CALL and RET have the latch in their row of `partsOf`. -/
theorem eq_call_or_ret_of_fault_mem_partsOf {i : Instr} (h : Part.fault ∈ partsOf i) :
    (∃ nnn, i = .call nnn) ∨ i = .ret := by
  cases i <;> simp_all [partsOf]

/-- An instruction that changes the latch is CALL on a full stack or RET on an empty one, and raises on the very state it
finds. -/
theorem exec_raises {i : Instr} {s t : State} (h : exec i s = .next t) (hne : t.fault ≠ s.fault) :
    (∃ nnn, i = .call nnn ∧ s.sp.val = 16 ∧ t = s.raise .stackOverflow) ∨
    (i = .ret ∧ s.sp.val = 0 ∧ t = s.raise .stackUnderflow) := by
  have hmem : Part.fault ∈ partsOf i := by
    by_contra hnot
    exact hne (exec_unchangedBut_partsOf h .fault hnot)
  obtain ⟨nnn, rfl⟩ | rfl := eq_call_or_ret_of_fault_mem_partsOf hmem
  · obtain ⟨hsp, hcall⟩ | ⟨u, hpush, hcall⟩ := execCall_cases nnn s <;> cases hcall.symm.trans h
    · exact .inl ⟨nnn, rfl, hsp, rfl⟩
    · exact absurd (fault_of_push hpush) hne
  · obtain ⟨hsp, hret⟩ | ⟨v, u, hpop, hret⟩ := execRet_cases s <;> cases hret.symm.trans h
    · exact .inr ⟨rfl, hsp, rfl⟩
    · exact absurd (fault_of_pop hpop) hne

/-- Settles O43: a no-op keeps the latch, and an instruction that sets it raises on the state found. -/
theorem faultCommitsOnlyTheLatch : Obligations.FaultCommitsOnlyTheLatch := by
  intro s t hf hstep ht
  have hne : t.fault ≠ s.fault := hf.symm ▸ ht
  obtain ⟨hhalted, -⟩ | ⟨-, i, hdecode, hexec⟩ | ⟨-, -, rfl⟩ := step_cases hstep
  · exact absurd hf hhalted
  · obtain ⟨nnn, rfl, hsp, rfl⟩ | ⟨rfl, hsp, rfl⟩ := exec_raises hexec hne
    · exact ⟨unchangedBut_raise s _, .inl ⟨⟨nnn, hdecode⟩, hsp, rfl⟩⟩
    · exact ⟨unchangedBut_raise s _, .inr ⟨hdecode, hsp, rfl⟩⟩
  · exact absurd rfl hne

/-! ### The parts a TICK leaves alone (R74, R79) -/

/-- A TICK leaves every part but the pc that the decoded instruction, if there is one, may not write. -/
theorem step_same_of_notMem_partsOf {s t : State} {p : Part} (h : step s = .next t) (hpc : p ∉ [Part.pc])
    (hp : ∀ i, decode s.fetch = .ok i → p ∉ partsOf i) : p.same s t := by
  obtain ⟨-, rfl⟩ | ⟨-, i, hdecode, hexec⟩ | ⟨-, -, rfl⟩ := step_cases h
  · exact unchangedBut_refl [.pc] t p hpc
  · exact exec_unchangedBut_partsOf hexec p (hp i hdecode)
  · exact unchangedBut_advance s p hpc

theorem keys_notMem_partsOf (i : Instr) : Part.keys ∉ partsOf i := by
  cases i <;> simp [partsOf]

theorem eq_ldDTVx_of_dt_mem_partsOf {i : Instr} (h : Part.dt ∈ partsOf i) : ∃ x, i = .ldDTVx x := by
  cases i <;> simp_all [partsOf]

theorem eq_ldSTVx_of_st_mem_partsOf {i : Instr} (h : Part.st ∈ partsOf i) : ∃ x, i = .ldSTVx x := by
  cases i <;> simp_all [partsOf]

/-- Settles O45: each clause is the row of its part in the table of who writes what. -/
theorem tickLeavesTimersAndKeys : Obligations.TickLeavesTimersAndKeys := by
  intro s t h
  refine ⟨step_same_of_notMem_partsOf (p := .keys) h (by decide) fun i _ => keys_notMem_partsOf i,
    fun hdt => step_same_of_notMem_partsOf (p := .dt) h (by decide) fun i hi hmem => ?_,
    fun hst => step_same_of_notMem_partsOf (p := .st) h (by decide) fun i hi hmem => ?_,
    fun hcall hret => step_same_of_notMem_partsOf (p := .fault) h (by decide) fun i hi hmem => ?_⟩
  · obtain ⟨x, rfl⟩ := eq_ldDTVx_of_dt_mem_partsOf hmem
    exact hdt x hi
  · obtain ⟨x, rfl⟩ := eq_ldSTVx_of_st_mem_partsOf hmem
    exact hst x hi
  · obtain ⟨nnn, rfl⟩ | rfl := eq_call_or_ret_of_fault_mem_partsOf hmem
    · exact hcall nnn hi
    · exact hret hi

/-! ### The jump to itself (R78) -/

/-- Writing the pc's own value, already below 4096, changes nothing. -/
theorem setPc_toNat_pc {s : State} (hpc : s.pc.toNat < 4096) : s.setPc s.pc.toNat = s := by
  have hsame : BitVec.ofNat 16 (wrapAddr s.pc.toNat) = s.pc := by
    rw [wrapAddr, Nat.mod_eq_of_lt hpc, BitVec.ofNat_toNat, BitVec.setWidth_eq]
  rw [State.setPc, hsame]

/-- JP's write of the pc replaces the advance (R83). -/
theorem exec_jp (nnn : Addr) (s : State) : exec (.jp nnn) s = .next (s.setPc nnn.toNat) := rfl

theorem step_of_idle {s : State} (h : s.idle) : step s = .next s := by
  obtain ⟨hf, hpc, hfetch⟩ := h
  have hdecode : decode s.fetch = .ok (.jp (s.pc.setWidth 12)) := by
    rw [hfetch]
    exact decode_encode (i := .jp (s.pc.setWidth 12)) rfl
  have htarget : (s.pc.setWidth 12).toNat = s.pc.toNat := by
    rw [BitVec.toNat_setWidth, Nat.mod_eq_of_lt hpc]
  rw [step_of_decode_ok hf hdecode, exec_jp, htarget, setPc_toNat_pc hpc]

/-- A run of TICKs only stays in a state that one TICK leaves as it is. -/
theorem runEvents_ticks_of_step_self {s : State} (h : step s = .next s) {es : List Event} (hes : ∀ e ∈ es, e = .tick) :
    runEvents es s = s := by
  refine runEvents_keeps (P := (· = s)) (fun e he u v hu hv => ?_) rfl
  subst hu
  cases hes e he
  cases h.symm.trans hv
  rfl

/-- Settles O48: every part of the run is TICKs only too, so it ends where the run started. -/
theorem idleLoopIsFixed : Obligations.IdleLoopIsFixed := by
  intro s n hidle
  have hfixed {es : List Event} (hes : ∀ e ∈ es, e = .tick) : runEvents es s = s :=
    runEvents_ticks_of_step_self (step_of_idle hidle) hes
  refine ⟨hfixed fun e => List.eq_of_mem_replicate, fun k => ?_⟩
  rw [hfixed fun e he => List.eq_of_mem_replicate (List.mem_of_mem_take he)]
  exact hidle.1

/-! ### The events on a halted CORE (R75) -/

theorem unchangedBut_advanceTimers (s : State) : unchangedBut [.dt, .st] s (advanceTimers s) :=
  unchangedBut_append (unchangedBut_setDT s _) (unchangedBut_setST _ _)

/-- A key index of 4 bits is never refused (R128). -/
theorem hostKeypress_toNat (k : Nibble) (pressed : Bool) (s : State) :
    hostKeypress k.toNat pressed s = .next (s.setKey k pressed) := by
  rw [hostKeypress, if_pos k.isLt, BitVec.ofNat_toNat, BitVec.setWidth_eq]

/-- Settles O42: only TICK looks at the latch. -/
theorem haltedIgnoresTicks : Obligations.HaltedIgnoresTicks := fun s hs =>
  ⟨step_of_halted hs,
    ⟨advanceTimers s, rfl, toNat_timerDown s.dt, toNat_timerDown s.st, unchangedBut_advanceTimers s⟩,
    fun k p => ⟨s.setKey k p, hostKeypress_toNat k p s, fun j => key_setKey s k j p, unchangedBut_setKey s k p⟩,
    ⟨s.hostReset, rfl, rfl⟩⟩

end Sys2Proof.Machine
end

section
/-! SUPPORT. CALL and RET (O2, O4, O10): a push or a pop by where `sp` stands, and what the two meanings answer there. -/

namespace Sys2Proof.Machine

/-! ### Pop and RET (R82) -/

theorem pop_of_sp_eq_succ {s : State} {k : Fin 16} (hsp : s.sp.val = k.val + 1) :
    s.pop = some (s.stack[k], { s with sp := k.castSucc }) := by
  obtain ⟨hzero, -⟩ | ⟨j, hj, hpop⟩ := pop_cases s
  · omega
  · obtain rfl : j = k := Fin.ext (by omega)
    exact hpop

theorem exec_ret_of_sp_eq_succ {s : State} {k : Fin 16} (hsp : s.sp.val = k.val + 1) :
    exec .ret s = .next (State.setPc { s.advance with sp := k.castSucc } (s.stack[k]).toNat) := by
  have hpop := pop_of_sp_eq_succ (s := s.advance) hsp
  simp only [exec, execRet, hpop, advance_stack]

theorem exec_ret_of_sp_eq_zero {s : State} (hsp : s.sp.val = 0) : exec .ret s = .next (s.raise .stackUnderflow) := by
  have hpop : s.advance.pop = none := dif_pos hsp
  simp only [exec, execRet, hpop]

/-- Settles O2: the popped entry is the next pc as it stands when it is below 4096, and an empty stack only raises. -/
theorem retPopsOrUnderflows : Obligations.RetPopsOrUnderflows := by
  refine ⟨decode_encode (i := .ret) rfl, fun s => ⟨fun k hsp => ?_, fun hsp => ?_⟩⟩
  · refine ⟨_, exec_ret_of_sp_eq_succ hsp, rfl, fun hentry => BitVec.eq_of_toNat_eq ?_, ?_⟩
    · rw [toNat_setPc, Nat.mod_eq_of_lt hentry]
    · have hpop := unchangedBut_pop (pop_of_sp_eq_succ (s := s.advance) hsp)
      exact unchangedBut_mono (by decide) <| unchangedBut_append
        (unchangedBut_append (unchangedBut_advance s) hpop) (unchangedBut_setPc _ _)
  · exact ⟨_, exec_ret_of_sp_eq_zero hsp, rfl, unchangedBut_raise s _⟩

/-! ### Push and CALL (R84) -/

theorem push_of_sp_lt {s : State} (hsp : s.sp.val < 16) (v : Word) :
    s.push v = some { s with stack := s.stack.set s.sp.val v hsp, sp := ⟨s.sp.val + 1, by omega⟩ } := dif_pos hsp

theorem exec_call_of_sp_lt {s : State} (hsp : s.sp.val < 16) (nnn : Addr) :
    exec (.call nnn) s = .next (State.setPc { s.advance with
      stack := s.stack.set s.sp.val s.advance.pc hsp, sp := ⟨s.sp.val + 1, by omega⟩ } nnn.toNat) := by
  have hpush := push_of_sp_lt (s := s.advance) hsp s.advance.pc
  simp only [exec, execCall, hpush, addrOperand, advance_stack, advance_sp]

theorem exec_call_of_sp_eq {s : State} (hsp : s.sp.val = 16) (nnn : Addr) :
    exec (.call nnn) s = .next (s.raise .stackOverflow) := by
  have hpush : s.advance.push s.advance.pc = none := dif_neg (by rw [advance_sp]; omega)
  simp only [exec, execCall, hpush]

/-- Settles O4: the advanced pc goes to the entry at `sp` and to no other, and a full stack only raises. -/
theorem callPushesOrOverflows : Obligations.CallPushesOrOverflows := by
  refine fun nnn s => ⟨decode_encode (i := .call nnn) rfl, fun hsp => ?_, fun hsp => ?_⟩
  · refine ⟨_, exec_call_of_sp_lt hsp nnn, ?_, rfl, fun k => ?_, ?_⟩
    · rw [toNat_setPc, Nat.mod_eq_of_lt nnn.isLt]
    · split
      · next hk => simp [← hk, nextPc]
      · next hk => simp [Ne.symm hk]
    · have hpush := unchangedBut_push (push_of_sp_lt (s := s.advance) hsp s.advance.pc)
      exact unchangedBut_mono (by decide) <| unchangedBut_append
        (unchangedBut_append (unchangedBut_advance s) hpush) (unchangedBut_setPc _ _)
  · exact ⟨_, exec_call_of_sp_eq hsp nnn, rfl, unchangedBut_raise s _⟩

/-! ### RET after CALL -/

theorem nextPc_lt (s : State) : nextPc s < 4096 := Nat.mod_lt _ (by decide)

/-- Settles O10: the entry CALL writes at `sp` is the one RET pops, and it is below 4096. -/
theorem callThenRetReturns : Obligations.CallThenRetReturns := by
  intro nnn s t u hlt hcall hsp hstack
  obtain ⟨k, hk⟩ : ∃ k : Fin 16, k.val = s.sp.val := ⟨⟨s.sp.val, hlt⟩, rfl⟩
  obtain ⟨-, hpushes, -⟩ := callPushesOrOverflows nnn s
  obtain ⟨t', hcall', -, htsp, htstack, -⟩ := hpushes hlt
  cases hcall'.symm.trans hcall
  have hentry : (u.stack[k]).toNat = nextPc s := by
    have h := htstack k
    rwa [if_pos hk, ← hstack] at h
  obtain ⟨hpops, -⟩ := retPopsOrUnderflows.2 u
  obtain ⟨v, hret, hvsp, hvpc, hframe⟩ := hpops k (by rw [hsp, htsp, hk])
  have hkept : ∀ j : Fin 16, v.stack[j] = u.stack[j] := hframe .stack (by decide)
  refine ⟨v, hret, ?_, Fin.ext (hvsp.trans hk), ?_⟩
  · rw [hvpc (hentry ▸ nextPc_lt s), hentry]
  · rw [← hstack]
    exact Vector.ext fun j hj => hkept ⟨j, hj⟩

end Sys2Proof.Machine
end

section
/-! SUPPORT. SYS, the jumps and the skips (O1, O3, O5 to O9): each writes the pc only, which is its row of `partsOf`. -/

namespace Sys2Proof.Machine

/-- Settles O1: outside the words of CLS and RET, SYS is well formed and so decoded. -/
theorem sysIsNoOp : Obligations.SysIsNoOp := fun nnn s =>
  ⟨fun hcls hret => decode_encode (i := .sys nnn) ((wf_sys_iff nnn).2 ⟨hcls, hret⟩),
    s.advance, rfl, toNat_advance s, exec_unchangedBut_partsOf (i := .sys nnn) rfl⟩

/-! ### Jumps (R83, R89) -/

/-- Settles O3: the 12 bits of NNN need no reduction. -/
theorem jpSetsPc : Obligations.JpSetsPc := fun nnn s =>
  ⟨decode_encode (i := .jp nnn) rfl, _, exec_jp nnn s,
    (toNat_setPc s _).trans (Nat.mod_eq_of_lt nnn.isLt), unchangedBut_setPc s _⟩

/-- Settles O9. -/
theorem jpV0AddsV0 : Obligations.JpV0AddsV0 := fun nnn s =>
  ⟨decode_encode (i := .jpV0 nnn) rfl, _, rfl, toNat_setPc s.advance (v0Target s nnn),
    exec_unchangedBut_partsOf (i := .jpV0 nnn) rfl⟩

/-! ### Skips (R80, R85 to R88) -/

theorem toNat_skipIf_beq (s : State) (a b : Byte) :
    (s.advance.skipIf (a == b)).pc.toNat = if a = b then skipPc s else nextPc s := by
  simp only [toNat_skipIf_advance, beq_iff_eq, skipPc, nextPc]

theorem toNat_skipIf_bne (s : State) (a b : Byte) :
    (s.advance.skipIf (a != b)).pc.toNat = if a = b then nextPc s else skipPc s := by
  simp only [toNat_skipIf_advance, bne_iff_ne, ite_not, skipPc, nextPc]

/-- Settles O5. -/
theorem seByteSkipsOnEqual : Obligations.SeByteSkipsOnEqual := fun x nn s =>
  ⟨decode_encode (i := .seByte x nn) rfl, _, rfl, toNat_skipIf_beq s _ _,
    exec_unchangedBut_partsOf (i := .seByte x nn) rfl⟩

/-- Settles O6. -/
theorem sneByteSkipsOnDifferent : Obligations.SneByteSkipsOnDifferent := fun x nn s =>
  ⟨decode_encode (i := .sneByte x nn) rfl, _, rfl, toNat_skipIf_bne s _ _,
    exec_unchangedBut_partsOf (i := .sneByte x nn) rfl⟩

/-- Settles O7. -/
theorem seRegSkipsOnEqual : Obligations.SeRegSkipsOnEqual := fun x y s =>
  ⟨decode_encode (i := .seReg x y) rfl, _, rfl, toNat_skipIf_beq s _ _,
    exec_unchangedBut_partsOf (i := .seReg x y) rfl⟩

/-- Settles O8. -/
theorem sneRegSkipsOnDifferent : Obligations.SneRegSkipsOnDifferent := fun x y s =>
  ⟨decode_encode (i := .sneReg x y) rfl, _, rfl, toNat_skipIf_bne s _ _,
    exec_unchangedBut_partsOf (i := .sneReg x y) rfl⟩

end Sys2Proof.Machine
end

section
/-! SUPPORT. Loads, arithmetic, logic, shifts and random (O11 to O20): each advances the pc and then writes Vx (R91 to
R96, R102), or Vx and then VF (R97 to R101), and its frame is its row of `partsOf`. -/

namespace Sys2Proof.Machine

/-! ### A register write after the advance -/

theorem reg_setReg_advance (s : State) (x r : Nibble) (v : Byte) :
    (s.advance.setReg x v).reg r = if r = x then v else s.reg r := by
  rw [reg_setReg, advance_reg]

theorem reg_setReg_advance_of_ne (s : State) {x r : Nibble} (v : Byte) (h : r ≠ x) :
    (s.advance.setReg x v).reg r = s.reg r := by
  rw [reg_setReg_advance, if_neg h]

theorem getLsbD_reg_setReg_advance (s : State) (x : Nibble) (v : Byte) (b : Nat) :
    ((s.advance.setReg x v).reg x).getLsbD b = v.getLsbD b := by
  rw [reg_setReg_advance, if_pos rfl]

theorem toNat_reg_setReg_advance (s : State) (x r : Nibble) (v : Byte) :
    ((s.advance.setReg x v).reg r).toNat = if r = x then v.toNat else (s.reg r).toNat := by
  rw [reg_setReg_advance, apply_ite BitVec.toNat]

/-- The order of R103: the flag wins when X = 15. -/
theorem toNat_reg_setRegAndFlag_advance (s : State) (x r : Nibble) (v f : Byte) :
    ((s.advance.setRegAndFlag x v f).reg r).toNat =
      if r = 0xF#4 then f.toNat else if r = x then v.toNat else (s.reg r).toNat := by
  rw [reg_setRegAndFlag, advance_reg, apply_ite BitVec.toNat, apply_ite BitVec.toNat]

/-! ### The flags of a sum and of a difference as numbers (R90) -/

theorem toNat_carryFlag (a b : Byte) : (carryFlag a b).toNat = if a.toNat + b.toNat > 255 then 1 else 0 := by
  simp only [carryFlag, toNat_flagByte, decide_eq_true_eq]

/-- Not-borrow is 0 exactly when the first operand is the smaller one. -/
theorem toNat_notBorrowFlag (a b : Byte) : (notBorrowFlag a b).toNat = if a.toNat < b.toNat then 0 else 1 := by
  simp only [notBorrowFlag, toNat_flagByte, decide_eq_true_eq, ge_iff_le, ← Nat.not_lt, ite_not]

/-! ### Loads (R91, R93) and the immediate add (R92) -/

/-- Settles O11. -/
theorem ldByteLoadsImmediate : Obligations.LdByteLoadsImmediate := fun x nn s =>
  ⟨decode_encode (i := .ldByte x nn) rfl, _, rfl, toNat_advance s, fun r => reg_setReg_advance s x r nn,
    exec_unchangedBut_partsOf (i := .ldByte x nn) rfl⟩

/-- Settles O13: Vy is read from the state found. -/
theorem ldRegCopies : Obligations.LdRegCopies := fun x y s =>
  ⟨decode_encode (i := .ldReg x y) rfl, _, rfl, toNat_advance s, fun r => reg_setReg_advance s x r (s.reg y),
    exec_unchangedBut_partsOf (i := .ldReg x y) rfl⟩

/-- Settles O12: Vx is the one register written, so VF is kept unless it is Vx. -/
theorem addByteWritesNoFlag : Obligations.AddByteWritesNoFlag := fun x nn s =>
  ⟨decode_encode (i := .addByte x nn) rfl, _, rfl, toNat_advance s,
    fun r => by rw [toNat_reg_setReg_advance, toNat_addResult],
    exec_unchangedBut_partsOf (i := .addByte x nn) rfl⟩

/-! ### Logic (R94 to R96) -/

/-- Settles O14: a bit of the result is the operation on the bits of Vx and Vy. -/
theorem logicIsBitwise : Obligations.LogicIsBitwise := fun x y s =>
  ⟨⟨decode_encode (i := .orReg x y) rfl, _, rfl, toNat_advance s,
      fun b => (getLsbD_reg_setReg_advance s x _ b).trans BitVec.getLsbD_or,
      fun _ => reg_setReg_advance_of_ne s _, exec_unchangedBut_partsOf (i := .orReg x y) rfl⟩,
    ⟨decode_encode (i := .andReg x y) rfl, _, rfl, toNat_advance s,
      fun b => (getLsbD_reg_setReg_advance s x _ b).trans BitVec.getLsbD_and,
      fun _ => reg_setReg_advance_of_ne s _, exec_unchangedBut_partsOf (i := .andReg x y) rfl⟩,
    ⟨decode_encode (i := .xorReg x y) rfl, _, rfl, toNat_advance s,
      fun b => (getLsbD_reg_setReg_advance s x _ b).trans BitVec.getLsbD_xor,
      fun _ => reg_setReg_advance_of_ne s _, exec_unchangedBut_partsOf (i := .xorReg x y) rfl⟩⟩

/-! ### Arithmetic and shifts with a flag (R97 to R101, R103) -/

/-- Settles O15. -/
theorem addRegSetsCarry : Obligations.AddRegSetsCarry := fun x y s =>
  ⟨decode_encode (i := .addReg x y) rfl, _, rfl, toNat_advance s,
    fun r => by rw [toNat_reg_setRegAndFlag_advance, toNat_carryFlag, toNat_addResult],
    exec_unchangedBut_partsOf (i := .addReg x y) rfl⟩

/-- Settles O16. -/
theorem subRegSetsNotBorrow : Obligations.SubRegSetsNotBorrow := fun x y s =>
  ⟨decode_encode (i := .subReg x y) rfl, _, rfl, toNat_advance s,
    fun r => by rw [toNat_reg_setRegAndFlag_advance, toNat_notBorrowFlag, toNat_subResult],
    exec_unchangedBut_partsOf (i := .subReg x y) rfl⟩

/-- Settles O18: SUB's result and flag with the operands exchanged. -/
theorem subnRegSetsNotBorrow : Obligations.SubnRegSetsNotBorrow := fun x y s =>
  ⟨decode_encode (i := .subnReg x y) rfl, _, rfl, toNat_advance s,
    fun r => by rw [toNat_reg_setRegAndFlag_advance, toNat_notBorrowFlag, toNat_subResult],
    exec_unchangedBut_partsOf (i := .subnReg x y) rfl⟩

/-- Settles O17: the result and the flag are of Vx alone. -/
theorem shrShiftsVx : Obligations.ShrShiftsVx := fun x y s =>
  ⟨decode_encode (i := .shr x y) rfl, _, rfl, toNat_advance s,
    fun r => by rw [toNat_reg_setRegAndFlag_advance, toNat_shrFlag, toNat_shrResult],
    exec_unchangedBut_partsOf (i := .shr x y) rfl⟩

/-- Settles O19: the result and the flag are of Vx alone. -/
theorem shlShiftsVx : Obligations.ShlShiftsVx := fun x y s =>
  ⟨decode_encode (i := .shl x y) rfl, _, rfl, toNat_advance s,
    fun r => by rw [toNat_reg_setRegAndFlag_advance, toNat_shlFlag, toNat_shlResult],
    exec_unchangedBut_partsOf (i := .shl x y) rfl⟩

/-! ### Random (R102) -/

/-- Settles O20: the draw is the one at the count found, and only the count goes on before Vx is written. -/
theorem rndMasksADraw : Obligations.RndMasksADraw := fun x nn s =>
  ⟨decode_encode (i := .rnd x nn) rfl, s.advance.drawn.setReg x (s.randomByte &&& nn), rfl, toNat_advance s,
    fun r => by rw [reg_setReg, drawn_reg, advance_reg, State.randomByte], rfl,
    exec_unchangedBut_partsOf (i := .rnd x nn) rfl⟩

end Sys2Proof.Machine
end

section
/-! SUPPORT. The index register and memory (O21 to O26): three writes of `I` (R105 to R107), two sequences of writes from `I`
on (R108, R109), and the sequence of loads (R110). Which parts each may change is its row of `partsOf`. -/

namespace Sys2Proof.Machine

/-! ### Writes of the index register (R105 to R107) -/

theorem toNat_addrWord (nnn : Addr) : (addrWord nnn).toNat = nnn.toNat :=
  BitVec.toNat_setWidth_of_le (by decide)

theorem toNat_regWord (s : State) (x : Nibble) : (regWord s x).toNat = (s.reg x).toNat :=
  BitVec.toNat_setWidth_of_le (by decide)

/-- At most 75, so it fits `I` without reduction. -/
theorem toNat_fontAddr (b : Byte) : (fontAddr b).toNat = 5 * (b.toNat % 16) := by
  simp only [fontAddr, Config.fontBase, Config.fontStride, toNat_lowNibble, BitVec.toNat_ofNat]
  omega

/-- Settles O21. -/
theorem ldILoadsAddress : Obligations.LdILoadsAddress := fun nnn s =>
  ⟨decode_encode (i := .ldI nnn) rfl, _, rfl, toNat_advance s, toNat_addrWord nnn,
    exec_unchangedBut_partsOf (i := .ldI nnn) rfl⟩

/-- Settles O22: the sum is a 16-bit one, and VF is among the registers the frame keeps. -/
theorem addIVxWrapsAt16Bits : Obligations.AddIVxWrapsAt16Bits := fun x s =>
  ⟨decode_encode (i := .addIVx x) rfl, _, rfl, toNat_advance s,
    by rw [setI_i, BitVec.toNat_add, toNat_regWord],
    exec_unchangedBut_partsOf (i := .addIVx x) rfl⟩

/-- Settles O23. -/
theorem ldFVxComputesFontAddress : Obligations.LdFVxComputesFontAddress := fun x s =>
  ⟨decode_encode (i := .ldFVx x) rfl, _, rfl, toNat_advance s, toNat_fontAddr (s.reg x),
    exec_unchangedBut_partsOf (i := .ldFVx x) rfl⟩

/-! ### Sequences of writes from `I` on (R108, R109) -/

theorem toNat_writeBytes_advance_pc (s : State) (a : Nat) (bs : List Byte) :
    (s.advance.writeBytes a bs).pc.toNat = nextPc s := by
  rw [writeBytes_pc]
  exact toNat_advance s

/-- At an address outside the sequence, memory is as in the state found. -/
theorem readByte_writeBytes_advance_of_ne (s : State) {bs : List Byte} (hlen : bs.length ≤ 4096) {b : Nat}
    (hb : ∀ k, k < bs.length → b % 4096 ≠ indexAddr s k % 4096) :
    (s.advance.writeBytes (indexAddr s 0) bs).readByte b = s.readByte b :=
  (readByte_writeBytes s.advance (indexAddr s 0) bs hlen b).1 hb

/-- The three digits are below 10, so each fits its byte. -/
theorem map_toNat_bcdDigits (b : Byte) :
    (bcdDigits b).map BitVec.toNat = [b.toNat / 100, b.toNat / 10 % 10, b.toNat % 10] := by
  have hb := b.isLt
  simp only [bcdDigits, List.map_cons, List.map_nil, BitVec.toNat_ofNat, List.cons.injEq, and_true]
  omega

theorem length_bcdDigits (b : Byte) : (bcdDigits b).length = 3 := rfl

/-- Digit `k`, hundreds first, is read back at the `k`-th address from `I` on (R108). -/
theorem toNat_readByte_writeBytes_bcdDigits (t s : State) (v : Byte) {k : Nat} (hk : k < 3) :
    ((t.writeBytes (indexAddr s 0) (bcdDigits v)).readByte (indexAddr s k)).toNat =
      [v.toNat / 100, v.toNat / 10 % 10, v.toNat % 10][k] := by
  have hlen : (bcdDigits v).length ≤ 4096 := by rw [length_bcdDigits]; decide
  rw [(readByte_writeBytes t (indexAddr s 0) _ hlen (indexAddr s k)).2 k hk rfl]
  exact (List.getElem_map BitVec.toNat).symm.trans (List.getElem_of_eq (map_toNat_bcdDigits v) hk)

/-- Settles O24. -/
theorem ldBVxStoresDigits : Obligations.LdBVxStoresDigits := fun x s =>
  have digit {k : Nat} (hk : k < 3) := toNat_readByte_writeBytes_bcdDigits s.advance s (s.reg x) hk
  ⟨decode_encode (i := .ldBVx x) rfl, s.advance.writeBytes (indexAddr s 0) (bcdDigits (s.reg x)), rfl,
    toNat_writeBytes_advance_pc s _ _,
    digit (k := 0) (by decide), digit (k := 1) (by decide), digit (k := 2) (by decide),
    fun _ ha => readByte_writeBytes_advance_of_ne s (by rw [length_bcdDigits]; decide) ha,
    exec_unchangedBut_partsOf (i := .ldBVx x) rfl⟩

theorem regOf_toNat (r : Nibble) : regOf r.toNat = r :=
  (BitVec.ofNat_toNat 4 r).trans (BitVec.setWidth_eq r)

/-- Settles O25: the stored bytes are at the addresses for `k` up to X. -/
theorem storeRegsStoresV0ToVx : Obligations.StoreRegsStoresV0ToVx := by
  intro x s
  have hx := x.isLt
  have hlen : (storedRegs s x).length = x.toNat + 1 := length_storedRegs s x
  refine ⟨decode_encode (i := .storeRegs x) rfl, s.advance.writeBytes (indexAddr s 0) (storedRegs s x), rfl,
    toNat_writeBytes_advance_pc s _ _, fun r hr => ?_, fun a ha => ?_,
    exec_unchangedBut_partsOf (i := .storeRegs x) rfl⟩
  · rw [readByte_writeBytes_storedRegs s.advance s hr rfl, regOf_toNat]
  · exact readByte_writeBytes_advance_of_ne s (by omega) fun k hk => ha k (by omega)

/-! ### V0 to Vx loaded from `I` on (R110) -/

theorem loadedRegs_pc (s : State) {n : Nat} (hn : n ≤ 16) : (loadedRegs s n).pc = s.pc := by
  rw [(loadedRegs_spec s n hn).2]

/-- Settles O26: a register of number up to X is one of the first X + 1. -/
theorem loadRegsLoadsV0ToVx : Obligations.LoadRegsLoadsV0ToVx := by
  intro x s
  have hcount : regCount x ≤ 16 := x.isLt
  refine ⟨decode_encode (i := .loadRegs x) rfl, loadedRegs s.advance (regCount x), rfl, ?_, fun r => ?_,
    exec_unchangedBut_partsOf (i := .loadRegs x) rfl⟩
  · rw [loadedRegs_pc _ hcount]
    exact toNat_advance s
  · rw [(loadedRegs_spec s.advance _ hcount).1 r]
    simp only [regCount, Nat.lt_succ_iff]
    rfl

end Sys2Proof.Machine
end

section
/-! SUPPORT. The display instructions (O28 to O30): CLS leaves the clear framebuffer (R112); the loops of DRW toggle the cells
the clipped sprite has a 1 bit on and tell whether one of them was on (R113 to R115), so a second DRW undoes the first. -/

namespace Sys2Proof.Machine

/-- Settles O28. -/
theorem clsClearsDisplay : Obligations.ClsClearsDisplay :=
  ⟨decode_encode (i := .cls) rfl, fun s =>
    ⟨s.advance.setFb Framebuffer.clear, rfl, toNat_advance s, get_clear, exec_unchangedBut_partsOf (i := .cls) rfl⟩⟩

/-! ### Drawing as toggling a set of cells -/

/-- From `d` to `e` the cells that satisfy `on` are inverted and no other, and the hit is set where one of them was on: what
`drawRow_spec` says of one sprite row. -/
def Toggles (on : Nat → Nat → Prop) (d e : Framebuffer × Bool) : Prop :=
  (∀ x y, (on x y → e.1.get x y = !d.1.get x y) ∧ (¬ on x y → e.1.get x y = d.1.get x y)) ∧
  (e.2 = true ↔ d.2 = true ∨ ∃ x y, on x y ∧ d.1.get x y = true)

section
variable {on on' : Nat → Nat → Prop} {d e f : Framebuffer × Bool}

theorem toggles_of_forall_not (d : Framebuffer × Bool) (hno : ∀ x y, ¬ on x y) : Toggles on d d :=
  ⟨fun x y => ⟨fun h => absurd h (hno x y), fun _ => rfl⟩,
    .inl, Or.rec id fun ⟨x, y, h, _⟩ => absurd h (hno x y)⟩

/-- Two draws on disjoint sets of cells: the second finds its cells as the first did. -/
theorem Toggles.trans (h : Toggles on d e) (h' : Toggles on' e f) (hdisj : ∀ x y, on' x y → ¬ on x y) :
    Toggles (fun x y => on x y ∨ on' x y) d f := by
  obtain ⟨hcell, hhit⟩ := h
  obtain ⟨hcell', hhit'⟩ := h'
  have hsecond {x y : Nat} (hon' : on' x y) : e.1.get x y = d.1.get x y := (hcell x y).2 (hdisj x y hon')
  refine ⟨fun x y => ⟨?_, fun hno => ?_⟩, ?_⟩
  · rintro (hon | hon')
    · rw [(hcell' x y).2 fun hon' => hdisj x y hon' hon, (hcell x y).1 hon]
    · rw [(hcell' x y).1 hon', hsecond hon']
  · rw [not_or] at hno
    rw [(hcell' x y).2 hno.2, (hcell x y).2 hno.1]
  · have hsecondHit : (∃ x y, on' x y ∧ e.1.get x y = true) ↔ ∃ x y, on' x y ∧ d.1.get x y = true :=
      exists_congr fun x => exists_congr fun y => and_congr_right fun hon' => by rw [hsecond hon']
    simp only [hhit', hhit, hsecondHit, or_and_right, exists_or, or_assoc]

/-- A toggled cell that was on is a cell that went from on to off. -/
theorem Toggles.exists_on_iff (h : Toggles on d e) :
    (∃ x y, on x y ∧ d.1.get x y = true) ↔ ∃ x y, d.1.get x y = true ∧ e.1.get x y = false := by
  refine exists_congr fun x => exists_congr fun y => ⟨fun ⟨hon, hd⟩ => ⟨hd, ?_⟩, fun ⟨hd, he⟩ => ⟨?_, hd⟩⟩
  · rw [(h.1 x y).1 hon, hd, Bool.not_true]
  · by_contra hoff
    rw [(h.1 x y).2 hoff, hd] at he
    cases he

end

/-! ### The sprite, row by row (R113, R114) -/

/-- The rows of a sprite of `n + 1` rows are its first `n` and row `n`. -/
theorem spriteOn_succ (s : State) (vx vy n x y : Nat) :
    spriteOn s vx vy (n + 1) x y ↔
      spriteOn s vx vy n x y ∨ rowOn (s.readByte (indexAddr s n)) vx (vy + n) 8 x y := by
  unfold spriteOn rowOn
  constructor
  · rintro ⟨hx, hy, hvx, hx8, hvy, hyn, hbit⟩
    by_cases hrow : y = vy + n
    · subst hrow
      exact .inr ⟨rfl, hx, hy, hvx, hx8, by rwa [Nat.add_sub_cancel_left] at hbit⟩
    · exact .inl ⟨hx, hy, hvx, hx8, hvy, by omega, hbit⟩
  · rintro (⟨hx, hy, hvx, hx8, hvy, hyn, hbit⟩ | ⟨rfl, hx, hy, hvx, hx8, hbit⟩)
    · exact ⟨hx, hy, hvx, hx8, hvy, by omega, hbit⟩
    · exact ⟨hx, hy, hvx, hx8, by omega, by omega, by rwa [Nat.add_sub_cancel_left]⟩

/-- The first `n` rows leave the cells of row `n` alone. -/
theorem not_spriteOn_of_rowOn {s : State} {b : Byte} {vx vy n x y : Nat} (h : rowOn b vx (vy + n) 8 x y) :
    ¬ spriteOn s vx vy n x y := by
  unfold rowOn at h
  unfold spriteOn
  omega

theorem drawSprite_succ (s : State) (vx vy n : Nat) :
    drawSprite s vx vy (n + 1) = drawRow (s.readByte (indexAddr s n)) vx (vy + n) (drawSprite s vx vy n) := by
  simp only [drawSprite, List.range_succ, List.foldl_append, List.foldl_cons, List.foldl_nil]

/-- The sprite is drawn row by row, and the rows are on different cells. -/
theorem drawSprite_toggles (s : State) (vx vy n : Nat) :
    Toggles (spriteOn s vx vy n) (s.fb, false) (drawSprite s vx vy n) := by
  induction n with
  | zero => exact toggles_of_forall_not _ fun x y h => by unfold spriteOn at h; omega
  | succ n ih =>
    have hon : spriteOn s vx vy (n + 1) =
        fun x y => spriteOn s vx vy n x y ∨ rowOn (s.readByte (indexAddr s n)) vx (vy + n) 8 x y :=
      funext fun x => funext fun y => propext (spriteOn_succ s vx vy n x y)
    rw [drawSprite_succ, hon]
    exact ih.trans (drawRow_spec ..) fun x y => not_spriteOn_of_rowOn

/-- The sprite is read from memory at `I` only. -/
theorem spriteOn_congr {s t : State} (hmem : ∀ a, t.readByte a = s.readByte a) (hi : t.i = s.i) (vx vy n : Nat) :
    spriteOn t vx vy n = spriteOn s vx vy n := by
  unfold spriteOn indexAddr
  simp only [hmem, hi]

/-! ### DRW (R113, R115) -/

theorem flagByte_eq_one_iff (c : Bool) : flagByte c = 0x01#8 ↔ c = true := by cases c <;> decide

/-- The state that `DRW Vx, Vy, N` leaves. -/
def afterDrw (x y n : Nibble) (s : State) : State :=
  let d := drawSprite s (coordOperand s x) (coordOperand s y) n.toNat
  (s.advance.setFb d.1).setVF (flagByte d.2)

theorem exec_drw (x y n : Nibble) (s : State) : exec (.drw x y n) s = .next (afterDrw x y n s) := rfl

section
variable (x y n : Nibble) (s : State)

theorem toNat_afterDrw_pc : (afterDrw x y n s).pc.toNat = nextPc s := toNat_advance s

theorem afterDrw_unchangedBut : unchangedBut [.pc, .regs, .fb] s (afterDrw x y n s) :=
  exec_unchangedBut_partsOf (exec_drw x y n s)

theorem afterDrw_reg_of_ne {r : Nibble} (hr : r ≠ 0xF#4) : (afterDrw x y n s).reg r = s.reg r :=
  by_contra fun hne => hr (eq_of_reg_setReg_ne hne)

theorem afterDrw_reg_VF : (afterDrw x y n s).reg 0xF#4 =
    flagByte (drawSprite s (s.reg x).toNat (s.reg y).toNat n.toNat).2 :=
  (reg_setReg ..).trans (if_pos rfl)

theorem afterDrw_pixel_of_spriteOn {px py : Nat}
    (h : spriteOn s (s.reg x).toNat (s.reg y).toNat n.toNat px py) :
    (afterDrw x y n s).pixel px py = !s.pixel px py :=
  ((drawSprite_toggles s _ _ _).1 px py).1 h

theorem afterDrw_pixel_of_not_spriteOn {px py : Nat}
    (h : ¬ spriteOn s (s.reg x).toNat (s.reg y).toNat n.toNat px py) :
    (afterDrw x y n s).pixel px py = s.pixel px py :=
  ((drawSprite_toggles s _ _ _).1 px py).2 h

/-- VF after DRW is 1 exactly when the sprite has a 1 bit on a cell that was on. -/
theorem afterDrw_reg_VF_eq_one_iff : (afterDrw x y n s).reg 0xF#4 = 0x01#8 ↔
    ∃ px py, spriteOn s (s.reg x).toNat (s.reg y).toNat n.toNat px py ∧ s.pixel px py = true := by
  rw [afterDrw_reg_VF, flagByte_eq_one_iff, (drawSprite_toggles s _ _ _).2]
  exact or_iff_right Bool.false_ne_true

end

/-- VF is a flag: it is 0 where it is not 1. -/
theorem afterDrw_reg_VF_eq_zero_of_ne_one {x y n : Nibble} {s : State}
    (h : (afterDrw x y n s).reg 0xF#4 ≠ 0x01#8) : (afterDrw x y n s).reg 0xF#4 = 0x00#8 := by
  rw [afterDrw_reg_VF, Ne, flagByte_eq_one_iff] at h
  rw [afterDrw_reg_VF, Bool.eq_false_of_not_eq_true h]
  rfl

/-- Settles O29: a collision is a cell of the sprite that was on. -/
theorem drwTogglesSpriteCells : Obligations.DrwTogglesSpriteCells := fun x y n s =>
  have hVF : (afterDrw x y n s).reg 0xF#4 = 0x01#8 ↔
      ∃ px py, s.pixel px py = true ∧ (afterDrw x y n s).pixel px py = false :=
    (afterDrw_reg_VF_eq_one_iff x y n s).trans (drawSprite_toggles s _ _ _).exists_on_iff
  ⟨decode_encode (i := .drw x y n) rfl, afterDrw x y n s, exec_drw x y n s, toNat_afterDrw_pc x y n s,
    fun _ _ => afterDrw_pixel_of_spriteOn x y n s, fun _ _ => afterDrw_pixel_of_not_spriteOn x y n s,
    hVF.2, fun hno => afterDrw_reg_VF_eq_zero_of_ne_one (mt hVF.1 hno),
    fun _ => afterDrw_reg_of_ne x y n s, afterDrw_unchangedBut x y n s⟩

/-! ### DRW after DRW -/

/-- With neither coordinate in VF, a DRW leaves its own sprite where it was: it writes neither memory, nor `I`, nor the
coordinates. -/
theorem spriteOn_afterDrw {x y : Nibble} (hx : x ≠ 0xF#4) (hy : y ≠ 0xF#4) (n : Nibble) (s : State) :
    let t := afterDrw x y n s
    spriteOn t (t.reg x).toNat (t.reg y).toNat n.toNat = spriteOn s (s.reg x).toNat (s.reg y).toNat n.toNat := by
  have hframe := afterDrw_unchangedBut x y n s
  simp only [afterDrw_reg_of_ne x y n s hx, afterDrw_reg_of_ne x y n s hy]
  exact spriteOn_congr (hframe .mem (by decide)) (hframe .i (by decide)) _ _ _

/-- Settles O30: the second draw toggles the cells of the first, so each is inverted twice, and one is on before the second
where it was off before the first. -/
theorem drwTwiceRestores : Obligations.DrwTwiceRestores := by
  intro x y n s t hx hy h
  cases h
  have hsame := spriteOn_afterDrw hx hy n s
  refine ⟨_, exec_drw x y n (afterDrw x y n s), fun px py => ?_, ?_⟩
  · by_cases hon : spriteOn s (s.reg x).toNat (s.reg y).toNat n.toNat px py
    · rw [afterDrw_pixel_of_spriteOn x y n _ (hsame ▸ hon), afterDrw_pixel_of_spriteOn x y n s hon, Bool.not_not]
    · rw [afterDrw_pixel_of_not_spriteOn x y n _ (hsame ▸ hon), afterDrw_pixel_of_not_spriteOn x y n s hon]
  · rw [afterDrw_reg_VF_eq_one_iff, hsame]
    refine exists_congr fun px => exists_congr fun py => and_congr_right fun hon => ?_
    rw [afterDrw_pixel_of_spriteOn x y n s hon, Bool.not_eq_true']

end Sys2Proof.Machine
end

section
/-! SUPPORT. The keypad and timer instructions (O31 to O34): the key SKP and SKNP test (R116, R117, R122), the search of
LD Vx, K from key 0 upward (R118), and the copies between Vx and the timers (R119 to R121). -/

namespace Sys2Proof.Machine

/-! ### Key skips (R116, R117, R122) -/

theorem lowNibble_eq_ofNat (b : Byte) : lowNibble b = BitVec.ofNat 4 (b.toNat % 16) := by
  rw [← toNat_lowNibble, BitVec.ofNat_toNat, BitVec.setWidth_eq]

theorem toNat_skipIf_keyOperand (s : State) (x : Nibble) :
    (s.advance.skipIf (keyOperand s x)).pc.toNat =
      if s.key (BitVec.ofNat 4 ((s.reg x).toNat % 16)) = true then skipPc s else nextPc s := by
  rw [keyOperand, lowNibble_eq_ofNat]
  exact toNat_skipIf_advance s _

theorem toNat_skipIf_not_keyOperand (s : State) (x : Nibble) :
    (s.advance.skipIf (!keyOperand s x)).pc.toNat =
      if s.key (BitVec.ofNat 4 ((s.reg x).toNat % 16)) = true then nextPc s else skipPc s := by
  rw [keyOperand, lowNibble_eq_ofNat, toNat_skipIf_advance]
  simp only [Bool.not_eq_true', ← Bool.not_eq_true, ite_not, skipPc, nextPc]

/-- Settles O31. -/
theorem keySkipsTestLowNibble : Obligations.KeySkipsTestLowNibble := fun x s =>
  ⟨⟨decode_encode (i := .skp x) rfl, _, rfl, toNat_skipIf_keyOperand s x,
      exec_unchangedBut_partsOf (i := .skp x) rfl⟩,
    ⟨decode_encode (i := .sknp x) rfl, _, rfl, toNat_skipIf_not_keyOperand s x,
      exec_unchangedBut_partsOf (i := .sknp x) rfl⟩⟩

/-! ### The key search (R118) -/

theorem lowestKey_eq_none_iff {s : State} : s.lowestKey = none ↔ ∀ k : Nibble, s.key k = false := by
  refine ⟨lowestKey_none, fun hnone => ?_⟩
  cases hfound : s.lowestKey with
  | none => rfl
  | some k => exact absurd (lowestKey_some hfound).1 (by simp [hnone k])

/-- Two keys that are each the least pressed one are not apart, as the lower of them would not be pressed. -/
theorem lowestKey_eq_some_iff {s : State} {k : Nibble} :
    s.lowestKey = some k ↔ s.key k = true ∧ ∀ j : Nibble, j.toNat < k.toNat → s.key j = false := by
  refine ⟨lowestKey_some, fun ⟨hk, hleast⟩ => ?_⟩
  cases hfound : s.lowestKey with
  | none => exact absurd hk (by simp [lowestKey_none hfound k])
  | some l =>
    obtain ⟨hl, hleast'⟩ := lowestKey_some hfound
    have hkl : k.toNat ≤ l.toNat := Nat.not_lt.1 fun hlt => by simp [hleast l hlt] at hl
    have hlk : l.toNat ≤ k.toNat := Nat.not_lt.1 fun hlt => by simp [hleast' k hlt] at hk
    rw [BitVec.eq_of_toNat_eq (Nat.le_antisymm hlk hkl)]

theorem toNat_keyByte (k : Nibble) : (keyByte k).toNat = k.toNat := BitVec.toNat_setWidth_of_le (by decide)

theorem exec_ldVxK_of_lowestKey_eq_some {s : State} {k : Nibble} (h : s.lowestKey = some k) (x : Nibble) :
    exec (.ldVxK x) s = .next (s.advance.setReg x (keyByte k)) := by
  simp only [exec, execLdVxK, h]

theorem exec_ldVxK_of_lowestKey_eq_none {s : State} (h : s.lowestKey = none) (x : Nibble) :
    exec (.ldVxK x) s = .next s := by
  simp only [exec, execLdVxK, h]

/-- Settles O32: the search finds exactly the least pressed key, and nothing exactly when no key is pressed. -/
theorem ldVxKTakesLeastKeyOrWaits : Obligations.LdVxKTakesLeastKeyOrWaits := by
  refine fun x s => ⟨decode_encode (i := .ldVxK x) rfl, fun k hk hleast => ?_, fun hnone => ?_⟩
  · have hexec := exec_ldVxK_of_lowestKey_eq_some (lowestKey_eq_some_iff.2 ⟨hk, hleast⟩) x
    exact ⟨_, hexec, toNat_advance s, fun r => by rw [toNat_reg_setReg_advance, toNat_keyByte],
      exec_unchangedBut_partsOf hexec⟩
  · exact exec_ldVxK_of_lowestKey_eq_none (lowestKey_eq_none_iff.2 hnone) x

/-! ### Copies between Vx and the timers (R119 to R121) -/

/-- Settles O33. -/
theorem ldVxDTReadsTimer : Obligations.LdVxDTReadsTimer := fun x s =>
  ⟨decode_encode (i := .ldVxDT x) rfl, _, rfl, toNat_advance s, fun r => reg_setReg_advance s x r s.dt,
    exec_unchangedBut_partsOf (i := .ldVxDT x) rfl⟩

/-- Settles O34. -/
theorem timersReceiveVx : Obligations.TimersReceiveVx := fun x s =>
  ⟨⟨decode_encode (i := .ldDTVx x) rfl, _, rfl, toNat_advance s, setDT_dt _ _,
      exec_unchangedBut_partsOf (i := .ldDTVx x) rfl⟩,
    ⟨decode_encode (i := .ldSTVx x) rfl, _, rfl, toNat_advance s, setST_st _ _,
      exec_unchangedBut_partsOf (i := .ldSTVx x) rfl⟩⟩

end Sys2Proof.Machine
end

section
/-! SUPPORT. The host's operations (46_host_operations.md): what RESET, LOAD, KEYPRESS and ADVANCE_TIMERS answer (O54 to
O58), what the accessors show (O59), and a TICK and a timer tick served at one instant (O60). -/

namespace Sys2Proof.Machine

/-! ### Answered and refused events (R126, R128) -/

section
variable {e : Event} {s t : State} {r : Refusal}

theorem afterEvent_of_next (h : applyEvent e s = .next t) : afterEvent s e = t := by
  simp only [afterEvent, h]

theorem afterEvent_of_refused (h : applyEvent e s = .refused r) : afterEvent s e = s := by
  simp only [afterEvent, h]

end

/-! ### RESET (R123) -/

/-- RESET keeps the count of draws only, which is no element of the CORE. -/
theorem fresh_hostReset (s : State) : s.hostReset.fresh := by
  intro p hp
  cases p with
  | draws => exact absurd List.mem_cons_self hp
  | regs | stack | mem | keys => exact fun _ => rfl
  | fb => exact fun _ _ => rfl
  | pc | i | sp | dt | st | fault => rfl

/-- Settles O54. -/
theorem resetEventIsFresh : Obligations.ResetEventIsFresh := fun s =>
  ⟨s.hostReset, rfl, fresh_hostReset s, rfl⟩

/-! ### LOAD (R125, R126) -/

section
variable {bytes : List Byte} (s : State)

theorem hostLoad_of_length_le (h : bytes.length ≤ 3584) : hostLoad bytes s = .next (s.writeBytes 512 bytes) := if_pos h

theorem hostLoad_of_lt_length (h : 3584 < bytes.length) :
    hostLoad bytes s = .refused (.capacityExceeded bytes.length) :=
  if_neg (Nat.not_le.2 h)

/-- Up to 3584 bytes end by address 4095, so each is at its own address. -/
theorem readByte_writeBytes_program (hlen : bytes.length ≤ 3584) {n : Nat} (hn : n < bytes.length) :
    (s.writeBytes 512 bytes).readByte (512 + n) = bytes[n] :=
  (readByte_writeBytes s 512 bytes (by omega) (512 + n)).2 n hn rfl

/-- No address below 512 or past the end is reached, as the sequence of writes does not wrap. -/
theorem readByte_writeBytes_program_of_outside (hlen : bytes.length ≤ 3584) {a : Nat} (ha : a < 4096)
    (hout : a < 512 ∨ 512 + bytes.length ≤ a) : (s.writeBytes 512 bytes).readByte a = s.readByte a :=
  (readByte_writeBytes s 512 bytes (by omega) a).1 fun k hk => by omega

end

/-- Settles O55. -/
theorem loadCopiesBytes : Obligations.LoadCopiesBytes := fun bytes s hlen =>
  have outside {a : Nat} := readByte_writeBytes_program_of_outside s hlen (a := a)
  ⟨s.writeBytes 512 bytes, hostLoad_of_length_le s hlen,
    fun _ hn => readByte_writeBytes_program s hlen hn,
    fun _ hbelow => outside (by omega) (.inl hbelow),
    fun _ hpast ha => outside ha (.inr hpast),
    unchangedBut_writeBytes s 512 bytes⟩

/-- Settles O56. -/
theorem loadTooLongIsRefused : Obligations.LoadTooLongIsRefused := fun bytes s hlen =>
  have hrefused : applyEvent (.load bytes) s = _ := hostLoad_of_lt_length s hlen
  ⟨hrefused, afterEvent_of_refused hrefused⟩

/-! ### ADVANCE_TIMERS (R127) -/

theorem advanceTimers_dt (s : State) : (advanceTimers s).dt = timerDown s.dt := rfl

theorem advanceTimers_reg (s : State) (r : Nibble) : (advanceTimers s).reg r = s.reg r := rfl

/-- The natural number subtraction of `toNat_timerDown` stops at 0, which is R127's case split. -/
theorem toNat_timerDown_eq_ite (t : Byte) : (timerDown t).toNat = if t.toNat = 0 then 0 else t.toNat - 1 := by
  rw [toNat_timerDown]
  split <;> omega

/-- Settles O57. -/
theorem advanceTimersCountsDown : Obligations.AdvanceTimersCountsDown := fun s =>
  ⟨advanceTimers s, rfl, toNat_timerDown_eq_ite s.dt, toNat_timerDown_eq_ite s.st, unchangedBut_advanceTimers s⟩

/-! ### KEYPRESS (R128) -/

theorem hostKeypress_of_gt {k : Nat} (h : 15 < k) (p : Bool) (s : State) :
    hostKeypress k p s = .refused (.keyIndexOutOfRange k) :=
  if_neg (Nat.not_lt.2 h)

/-- Settles O58: an index up to 15 is the number of a key. -/
theorem keypressSetsOneKey : Obligations.KeypressSetsOneKey := by
  refine fun k p s => ⟨fun hk => ?_, fun hk => ?_⟩
  · obtain ⟨key, rfl⟩ : ∃ key : Nibble, key.toNat = k := ⟨BitVec.ofNatLT k hk, rfl⟩
    refine ⟨s.setKey key p, hostKeypress_toNat key p s, fun j => ?_, unchangedBut_setKey s key p⟩
    simp only [key_setKey, BitVec.toNat_inj]
  · have hrefused : applyEvent (.keypress k p) s = _ := hostKeypress_of_gt hk p s
    exact ⟨hrefused, afterEvent_of_refused hrefused⟩

/-! ### Accessors (R129, R133, R140) -/

/-- Element `y * 64 + x` is column `x` of row `y`: quotient and remainder by 64. -/
theorem getElem_getDisplay (s : State) {x y : Nat} (hx : x < 64) (hy : y < 32) :
    (getDisplay s)[y * 64 + x]'(by omega) = s.pixel x y := by
  have hcol : (y * 64 + x) % 64 = x := by omega
  have hrow : (y * 64 + x) / 64 = y := by omega
  rw [getDisplay, Vector.getElem_ofFn, hcol, hrow]

theorem soundActive_iff (s : State) : soundActive s = true ↔ (getSoundTimer s).toNat ≠ 0 :=
  bne_iff_ne.trans (not_congr BitVec.toNat_inj.symm)

/-- The three codes are different. -/
theorem toNat_code_inj {c d : FaultLatch} : c.code.toNat = d.code.toNat ↔ c = d := by
  cases c <;> cases d <;> decide

/-- Settles O59. -/
theorem accessorsShowTheState : Obligations.AccessorsShowTheState := fun s =>
  ⟨fun _ _ => getElem_getDisplay s, soundActive_iff s,
    toNat_code_inj (d := .none), toNat_code_inj (d := .stackOverflow), toNat_code_inj (d := .stackUnderflow)⟩

/-! ### A TICK and a timer tick at one instant (R132) -/

/-- With no other request the instant is a TICK and then ADVANCE_TIMERS. -/
theorem serve_tick_tmr (s : State) :
    serve ⟨false, none, none, true, true⟩ s = advanceTimers (afterEvent s .tick) := rfl

/-- The timers count down from where the decoded instruction left them. -/
theorem serve_tick_tmr_of_exec {i : Instr} {s t : State} (hf : s.fault = .none) (hdecode : decode s.fetch = .ok i)
    (hexec : exec i s = .next t) : serve ⟨false, none, none, true, true⟩ s = advanceTimers t := by
  have htick : applyEvent .tick s = .next t := (step_of_decode_ok hf hdecode).trans hexec
  rw [serve_tick_tmr, afterEvent_of_next htick]

/-- Settles O60: LD Vx, DT copies DT and leaves it to be decremented, LD DT, Vx sets the value that is decremented. -/
theorem tickBeforeTimersAtOneInstant : Obligations.TickBeforeTimersAtOneInstant := by
  refine fun x s hf => ⟨fun hdecode => ?_, fun hdecode => ?_⟩
  · rw [serve_tick_tmr_of_exec hf hdecode (t := s.advance.setReg x s.dt) rfl, advanceTimers_reg, advanceTimers_dt]
    exact ⟨(reg_setReg_advance s x x s.dt).trans (if_pos rfl), toNat_timerDown s.dt⟩
  · rw [serve_tick_tmr_of_exec hf hdecode (t := s.advance.setDT (s.reg x)) rfl, advanceTimers_dt]
    exact toNat_timerDown (s.reg x)

end Sys2Proof.Machine
end
